-- ==== Sys2Proof/Word.lean ====
section
/-! DEFINITION. The words of the command port and the number system of the datapath. -/

namespace Sys2Proof

/-- A command word, an operand word, a status word, an entry of `OUT`: 32 bits (R11, R80). -/
abbrev Word := BitVec 32

/-- The note field of a command (R81): 7 bits, every value a legal note. -/
abbrev Note := BitVec 7

/-- The count field of RENDER (R81, R86): 24 bits, every value legal. -/
abbrev Count := BitVec 24

/-- `Num` of R8, the representation of samples, phases, levels and frequencies.
DESIGN CHOICE (log 1, unsafe): the rationals, on which `+ - * /`, `floor` and the comparisons are
exactly those of the reals of R10, and which are plain data. -/
abbrev Num := ℚ

end Sys2Proof
end

