-- ==== Sys2Proof/Config.lean ====
section
/-! DEFINITION. What an implementation fixes: the parameters of R8, the configuration record of R40
(both over a number system `α`), the numerics record that goes with `α`, the functions the machine's own
numbers leave open (opaque, no body), and the values `State.reset` takes. -/

namespace Sys2Proof

/-- An ADSR descriptor as configured (R40, numbers 5 to 8 and 9 to 12): milliseconds and a level. -/
structure Adsr (α : Type) where
  attackMs : α
  decayMs : α
  sustain : α
  releaseMs : α
  deriving DecidableEq, Repr

/-- The static layer configuration `CFG` (R40), in register-number order 0 to 14. Number 1,
`OSC_KIND`, is kept as the whole 32-bit word of R93. -/
structure Cfg (α : Type) where
  sampleRate : α
  oscKind : Word
  oscGain : α
  noiseGain : α
  lpfBaseFreq : α
  ampEnv : Adsr α
  modEnv : Adsr α
  oscModDepth : α
  lpfModDepth : α
  deriving DecidableEq, Repr

/-- The parameter `FadeGain` (R8, R163): the spec's default, the linear ramp over `FADE_FRAMES`, or
a function nothing is known of but its range. -/
inductive FadeShape (α : Type) where
  | ramp (fadeFrames : α)
  | free
  deriving DecidableEq, Repr

/-- The parameters of R8 that are plain data. `N_VOICES` is the length of the voice register file,
`TABLE_LEN` that of the table. `SeedInit` is a list: one seed for each slot (log 5). -/
structure Params (α : Type) where
  frameW : Nat
  seedW : Nat
  seedInit : List Nat
  initPhase : α
  envReleaseClamp : Bool
  fade : FadeShape α
  deriving DecidableEq, Repr

/-- The functions of a number system that are not arithmetic (R10, D2), and the two open functions of R8 on
it. -/
structure Functions (α : Type) where
  /-- the circle constant -/
  pi : α
  sin : α → α
  exp : α → α
  /-- `2^x` -/
  exp2 : α → α
  /-- `NoiseHash(seed, k)`, R120 -/
  noiseHash : Nat → Nat → α
  /-- `FadeGain(d)`, R163, when it is not the default ramp -/
  fadeGain : α → α

/-- The numerics record of R8 and D2. With it a rule takes its number system as an argument: the type `α`
with its own `+ - * /`, comparisons and integers (the operators found for `α`, no law assumed of them), and
this record. -/
structure Numerics (α : Type) extends Functions α where
  /-- `floor(x)`, R10 -/
  floor : α → Int
  /-- `toF32`, R63 -/
  toF32 : α → Word
  /-- a rational operand as a number of the system -/
  ofRat : Num → α

/-- `BUF_MAX` (R8, R86): the largest count of one RENDER and the number of entries of `OUT`. -/
def Config.bufMax : Nat := 2 ^ 24 - 1

/-- What the machine's own functions on the rationals may be: the properties the spec states of `pi`, `sin`,
`exp`, `2^x`, `NoiseHash` and `FadeGain`, and nothing else (log 2, log 3, log 4). The sine takes its angle in
turns. -/
structure FreeFunctions where
  pi : Num
  sinTurn : Num → Num
  exp : Num → Num
  exp2 : Num → Num
  noiseHash : Nat → Nat → Num
  fadeGain : Num → Num
  pi_mem : 3 < pi ∧ pi < 22 / 7
  /-- R105 -/
  sin_quarters : sinTurn 0 = 0 ∧ sinTurn (1 / 4) = 1 ∧ sinTurn (1 / 2) = 0 ∧ sinTurn (3 / 4) = -1
  /-- R100, R112 -/
  sin_mem : ∀ p, -1 ≤ sinTurn p ∧ sinTurn p ≤ 1
  sin_period : ∀ p, sinTurn (p + 1) = sinTurn p
  /-- the slope is at most `2*pi` a turn, R118 -/
  sin_slope : ∀ p q, |sinTurn p - sinTurn q| ≤ 2 * pi * |p - q|
  exp_zero : exp 0 = 1
  /-- R147 -/
  exp_pos : ∀ x, 0 < exp x
  /-- R147 -/
  exp_mono : ∀ x y, x < y → exp x < exp y
  exp2_zero : exp2 0 = 1
  /-- one more octave is a factor of two, R15 -/
  exp2_add_one : ∀ x, exp2 (x + 1) = 2 * exp2 x
  /-- R157 -/
  exp2_mono : ∀ x y, x < y → exp2 x < exp2 y
  /-- R120 -/
  noise_mem : ∀ seed k, -1 ≤ noiseHash seed k ∧ noiseHash seed k ≤ 1
  /-- R163 -/
  fade_mem : ∀ d, 0 ≤ fadeGain d ∧ fadeGain d ≤ 1

/-- The machine's own functions: some functions with those properties, nothing more is known of them.
(There are such functions: `Machine/FreeNum.lean`.) -/
opaque Config.functions [Inhabited FreeFunctions] : FreeFunctions

/-! The values `State.reset` takes where the spec gives none. DESIGN CHOICE (log 6, 7, 8, unsafe). -/

/-- `FRAME_W`, `SEED_W`, `INIT_PHASE`, `ENV_RELEASE_CLAMP`: the defaults of R8. `SeedInit`: 0 for
both slots; `FadeGain`: the free function (both OPEN in R8). -/
def Config.params : Params Num where
  frameW := 32
  seedW := 32
  seedInit := [0, 0]
  initPhase := 0
  envReleaseClamp := true
  fade := .free

/-- The values on the configuration port: those of program P1 of 95_test_vectors.md, with a rational
cutoff. -/
def Config.port : Cfg Num where
  sampleRate := 3520
  oscKind := 1#32
  oscGain := 1
  noiseGain := 0
  lpfBaseFreq := 388
  ampEnv := ⟨0, 0, 1, 0⟩
  modEnv := ⟨0, 0, 0, 0⟩
  oscModDepth := 0
  lpfModDepth := 0

/-- `TABLE`: that of program P4. -/
def Config.table : List Num := [0, 1, 0, -1]

end Sys2Proof
end

