-- ==== Sys2Proof/Syntax.lean ====
section
/-! DEFINITION. The instructions: the three commands, the five kind-tagged waveforms and the eight
hardwired unit operations of spec/opcode_table.json. -/

namespace Sys2Proof

/-- The five waveform kinds (R90). -/
inductive Kind where
  | square | saw | triangle | sine | table
  deriving DecidableEq, Repr

/-- One constructor per row of the opcode table. The operands are those of the row's rule. A waveform's
one operand, the phase, is read from the latch `seq.phase` (log 16), since a kind tag carries none. -/
inductive Instr where
  /-- NOTE_ON (R185); `opd` is the operand word, the velocity as a binary32 pattern -/
  | noteOn (note : Note) (opd : Word)
  /-- NOTE_OFF (R190) -/
  | noteOff (note : Note)
  /-- RENDER (R170) -/
  | render (count : Count)
  /-- OSC.SQUARE (R102) -/
  | oscSquare
  /-- OSC.SAW (R103) -/
  | oscSaw
  /-- OSC.TRIANGLE (R104) -/
  | oscTriangle
  /-- OSC.SINE (R105) -/
  | oscSine
  /-- OSC.TABLE (R108) -/
  | oscTable
  /-- OSC.STATELESS (R110) -/
  | oscStateless (kind : Kind) (period offset : Num)
  /-- OSC.ACC (R115) -/
  | oscAcc (slot : Nat) (kind : Kind) (period : Num)
  /-- OSC.NOISE (R120) -/
  | oscNoise (seed k : Nat)
  /-- ENV.SAMPLE (R131); times in frames -/
  | envSample (attack decay sustain release offset : Num) (rel : Option Num)
  /-- LPF.STEP (R146) -/
  | lpfStep (slot : Nat) (input cutoff sampleRate : Num)
  /-- PLAN (R155) -/
  | plan (slot frame : Nat)
  /-- VOICE.SAMPLE (R160) -/
  | voiceSample (slot frame : Nat)
  /-- MIX.FRAME (R172) -/
  | mixFrame (frame : Nat)
  deriving DecidableEq, Repr

end Sys2Proof
end

