-- ==== Sys2Proof/WellFormed.lean ====
section
/-! DEFINITION. The domain of each operand, as the rules state it. A command's operands are bit fields
every value of which is legal (R86, R87; the velocity's range is a check of NOTE_ON itself, R186);
what depends on the machine (a slot index, a width) is checked by the meaning. -/

namespace Sys2Proof

section Domains
variable {α : Type} [Zero α] [One α] [Add α] [Sub α] [Neg α] [Mul α] [Div α] [NatCast α] [IntCast α]
  [LT α] [LE α] [DecidableLT α] [DecidableLE α] [Max α]

/-- R100: a phase is in `[0,1)`. -/
def phaseOk (p : α) : Bool := decide (0 ≤ p) && decide (p < 1)

/-- R100, R125: a period is positive. -/
def periodOk (P : α) : Bool := decide (0 < P)

/-- R100, R125: an offset is not negative. -/
def offsetOk (o : α) : Bool := decide (0 ≤ o)

/-- R130, R135: `A, D, R >= 0`, `0 <= S <= 1`, `o >= 0`, `rel >= 0` where present. -/
def envOk (A D S R o : α) (rel : Option α) : Bool :=
  decide (0 ≤ A) && decide (0 ≤ D) && decide (0 ≤ S) && decide (S ≤ 1) && decide (0 ≤ R) && decide (0 ≤ o) &&
    rel.all (fun r => decide (0 ≤ r))

/-- R145, R151: `f > 0`, `sr > 0`. -/
def lpfOk (f sr : α) : Bool := decide (0 < f) && decide (0 < sr)

end Domains

/-- R62, R156: a frame index of a RENDER is below `BUF_MAX`. -/
def frameOk (i : Nat) : Bool := decide (i < Config.bufMax)

/-- The operands of an instruction are in the domain of its rule. -/
def Instr.wf : Instr → Bool
  | .noteOn _ _ => true
  | .noteOff _ => true
  | .render _ => true
  | .oscSquare => true
  | .oscSaw => true
  | .oscTriangle => true
  | .oscSine => true
  | .oscTable => true
  | .oscStateless _ P o => periodOk P && offsetOk o
  | .oscAcc _ _ P => periodOk P
  | .oscNoise _ _ => true
  | .envSample A D S R o rel => envOk A D S R o rel
  | .lpfStep _ _ f sr => lpfOk f sr
  | .plan _ i => frameOk i
  | .voiceSample _ i => frameOk i
  | .mixFrame i => frameOk i

end Sys2Proof
end

