-- ==== Sys2Proof/Decode.lean ====
section
/-! DEFINITION. The decoder of the command port (R82, R88, R92), the decoder of a kind tag (R90, R93),
and the encoder written from the same tables. -/

namespace Sys2Proof

/-- Why a first word is illegal (R92). -/
inductive Illegal where
  /-- `OPC` is none of `0x01`, `0x02`, `0x03` -/
  | unassignedOpcode
  /-- format N with `w[23:7] != 0` -/
  | reservedBits
  deriving DecidableEq, Repr

/-- What the words on the port start with. -/
inductive Decoded where
  /-- no word, or a two-word command whose second word has not arrived, its reserved bits set or not: nothing to
  perform (the second case is a DESIGN CHOICE, log 13) -/
  | incomplete
  /-- a command, and the words after it -/
  | command (i : Instr) (rest : List Word)
  /-- an illegal command, and the words after it (R88) -/
  | illegal (why : Illegal) (rest : List Word)
  deriving DecidableEq, Repr

/-- `OPC = w[31:24]` (R80). -/
def opcodeOf (w : Word) : BitVec 8 := w.extractLsb' 24 8

/-- `ZERO = w[23:7]` (R81, format N). -/
def zeroOf (w : Word) : BitVec 17 := w.extractLsb' 7 17

/-- `NOTE = w[6:0]` (R81, format N; R87). -/
def noteOf (w : Word) : Note := w.extractLsb' 0 7

/-- `COUNT = w[23:0]` (R81, format R; R87). -/
def countOf (w : Word) : Count := w.extractLsb' 0 24

/-- Command length in words, from the opcode of the first word alone (R88). -/
def commandLength (w : Word) : Nat := if opcodeOf w = 0x01#8 then 2 else 1

/-- R82, R88, R92. The words are the port's, oldest first. -/
def decode : List Word → Decoded
  | [] => .incomplete
  | w :: ws =>
    if opcodeOf w = 0x01#8 then
      match ws with
      | [] => .incomplete
      | opd :: rest =>
        if zeroOf w = 0#17 then .command (.noteOn (noteOf w) opd) rest else .illegal .reservedBits rest
    else if opcodeOf w = 0x02#8 then
      if zeroOf w = 0#17 then .command (.noteOff (noteOf w)) ws else .illegal .reservedBits ws
    else if opcodeOf w = 0x03#8 then .command (.render (countOf w)) ws
    else .illegal .unassignedOpcode ws

/-- The kind a configuration word 1 names (R90): the tag in bits `[2:0]`, bits `[31:3]` zero;
the reserved tags and words are none (R93). -/
def decodeKind (w : Word) : Option Kind :=
  if w = 0#32 then some .square
  else if w = 1#32 then some .saw
  else if w = 2#32 then some .triangle
  else if w = 3#32 then some .sine
  else if w = 4#32 then some .table
  else none

/-- The waveform operation a kind selects (R91, first row). -/
def kindInstr : Kind → Instr
  | .square => .oscSquare
  | .saw => .oscSaw
  | .triangle => .oscTriangle
  | .sine => .oscSine
  | .table => .oscTable

/-- The first word of a format N command (R81, R83, R84). -/
def formatN (opc : BitVec 8) (note : Note) : Word := (opc ++ 0#17 ++ note : BitVec 32)

/-- The word of a format R command (R81, R85). -/
def formatR (opc : BitVec 8) (count : Count) : Word := (opc ++ count : BitVec 32)

/-- The tag of a kind (R90). -/
def kindTag : Kind → BitVec 3
  | .square => 0#3
  | .saw => 1#3
  | .triangle => 2#3
  | .sine => 3#3
  | .table => 4#3

/-- How an instruction is encoded: words on the command port, a kind tag in configuration word 1, or
not at all (R91: `hardwired`). -/
inductive Encoding where
  | port (ws : List Word)
  | tag (t : BitVec 3)
  | hardwired
  deriving DecidableEq, Repr

/-- R83 to R85, R90, R91. -/
def encode : Instr → Encoding
  | .noteOn note opd => .port [formatN 0x01#8 note, opd]
  | .noteOff note => .port [formatN 0x02#8 note]
  | .render count => .port [formatR 0x03#8 count]
  | .oscSquare => .tag (kindTag .square)
  | .oscSaw => .tag (kindTag .saw)
  | .oscTriangle => .tag (kindTag .triangle)
  | .oscSine => .tag (kindTag .sine)
  | .oscTable => .tag (kindTag .table)
  | .oscStateless _ _ _ => .hardwired
  | .oscAcc _ _ _ => .hardwired
  | .oscNoise _ _ => .hardwired
  | .envSample _ _ _ _ _ _ => .hardwired
  | .lpfStep _ _ _ _ => .hardwired
  | .plan _ _ => .hardwired
  | .voiceSample _ _ => .hardwired
  | .mixFrame _ => .hardwired

/-- The command words of an instruction numbered as the opcode table numbers them: bit 0 of `w` is bit 0
of the first word, bit 32 that of the second. A first word of opcode `0x01` is followed by the second. -/
def tableWords (w : Nat) : List Word :=
  let first := BitVec.ofNat 32 w
  if commandLength first = 2 then [first, BitVec.ofNat 32 (w / 2 ^ 32)] else [first]

/-- A row of at most 8 bits is a kind tag (the table's format KIND), any other a command. -/
def decodeTableWord (nbits w : Nat) : Option Instr :=
  if nbits ≤ 8 then
    if w < 2 ^ 32 then (decodeKind (BitVec.ofNat 32 w)).map kindInstr else none
  else
    match decode (tableWords w) with
    | .command i _ => some i
    | .illegal _ _ => none
    | .incomplete => none

end Sys2Proof
end

