-- ==== Sys2Proof/Machine/State.lean ====
section
/-! DEFINITION. The state of the block (10_state.md), its reset (R55, R220), and the reasons a step can
stop. -/

namespace Sys2Proof.Machine

/-- One slot of the voice register file (R30), over a number system `α`. -/
structure Voice (α : Type) where
  /-- `NOTE`, R31 -/
  note : Note
  /-- `VEL`, R32 -/
  vel : α
  /-- `CUR`, R33 -/
  cur : Option Nat
  /-- `REL`, R34 -/
  rel : Option Nat
  /-- `FADE`, R35 -/
  fade : Option Nat
  /-- `PHASE`, R36 -/
  phase : Option α
  /-- `LPF_LAST`, R37 -/
  lpfLast : α
  /-- `SEED`, R37 -/
  seed : Nat
  deriving DecidableEq, Repr

/-- The render plan of R155. -/
structure Plan (α : Type) where
  kind : Kind
  period : α
  fLpf : α
  sampleRate : α
  amp : α
  /-- the frame offset `o`, an integer -/
  offset : Nat
  deriving DecidableEq, Repr

/-- Latches around the functional units. MODEL'S OWN (log 16): they are used only when a unit operation
of R91 is run by itself as an instruction; no command reads or writes them (R50). -/
structure Seq (α : Type) where
  /-- the sequencer is asked to issue the waveform that `CFG.OSC_KIND` names -/
  waveIssue : Bool
  /-- the phase operand of a waveform generator -/
  phase : α
  /-- what PLAN made -/
  plan : Plan α
  /-- the value the last unit operation returned -/
  result : α
  deriving DecidableEq, Repr

/-- `OUT` (R60, R62): (index, word) pairs, indexes strictly rising; an index not listed was never
written since reset and has no value (R55, R64; log 12). -/
abbrev OutMem := List (Nat × Word)

/-- The state of the block over a number system `α`, and the parameters it was built with. The number system is
an argument (R8, log 1); written without one, `State` is the state of the machine that `exec` and `step` run, whose
numbers are `Num`. -/
structure State (α : Type := Num) where
  /-- the parameters of R8, never written -/
  par : Params α
  /-- `CFG`, R40, written at reset only -/
  cfg : Cfg α
  /-- `TABLE`, R61, never written -/
  table : List α
  /-- `V[0 .. N_VOICES-1]`, R30 -/
  voices : List (Voice α)
  /-- `STATUS`, R45 -/
  status : Word
  /-- `CMD`, R20; the last command's word between commands (log 10) -/
  cmd : Word
  /-- `OPD`, R20; the last operand word between commands (log 10) -/
  opd : Word
  /-- words on the command port not yet taken, oldest first (R80; log 13) -/
  port : List Word
  /-- `OUT`, R62 -/
  out : OutMem
  /-- the count of the last RENDER (R64; log 18) -/
  outCount : Nat
  /-- latches of the unit operations (log 16) -/
  seq : Seq α
  deriving DecidableEq, Repr

/-- Why a step, or a host read, faults. -/
inductive Fault where
  /-- A unit operation was issued with an operand outside the domain of its rule (R125, R135, R151: no
  meaning). Raised by OSC.SQUARE to OSC.TABLE, OSC.STATELESS, OSC.ACC, ENV.SAMPLE, LPF.STEP, OSC.NOISE,
  PLAN, VOICE.SAMPLE, MIX.FRAME. Cannot arise inside a command. Safe. -/
  | outsideDomain
  /-- A unit operation named a slot at or beyond `N_VOICES` (R67: cannot arise). Raised by OSC.ACC,
  LPF.STEP, PLAN, VOICE.SAMPLE. Safe. -/
  | noSuchSlot
  /-- PLAN or VOICE.SAMPLE on a free slot, which has no frame offset (R156). Safe. -/
  | slotNotSounding
  /-- The host read an entry of `OUT` that the last RENDER did not write (R64, U6). Raised by
  `hostReadOut`, never by a step. Safe. -/
  | outNotReadable
  deriving DecidableEq, Repr

/-- Why a step is refused. -/
inductive Refusal where
  /-- The instruction has no meaning yet. No arm of `exec` uses it. Safe. -/
  | notModelled (mnemonic : String)
  /-- The configuration is not well formed (R9, R203, U1: no meaning), or a parameter is outside the
  range of R8. Raised by every instruction and by `step`. Safe. -/
  | illFormedConfig
  deriving DecidableEq, Repr

/-- The outcome of an instruction or a step. -/
abbrev Result (α : Type := Num) := Host.Outcome (State α) Fault Refusal

section Reset
variable {α : Type} [Zero α]

/-- A slot right after reset (R55). `NOTE` and `VEL` are unspecified there: DESIGN CHOICE 0 (log 9). -/
def Voice.reset (seed : Nat) : Voice α where
  note := 0#7
  vel := 0
  cur := none
  rel := none
  fade := none
  phase := none
  lpfLast := 0
  seed := seed

/-- DESIGN CHOICE (log 16): scratch, nothing of it is the spec's state between commands. -/
def Seq.reset : Seq α where
  waveIssue := false
  phase := 0
  plan := ⟨.square, 0, 0, 0, 0, 0⟩
  result := 0

/-- The block right after reset with parameters `par` (one slot for each seed of `SeedInit`), the
values `cfg` on the configuration port and the wavetable `table` (R55, R220 to R222).
`CMD` and `OPD` are unspecified: DESIGN CHOICE 0 (log 10). -/
def State.resetWith (par : Params α) (cfg : Cfg α) (table : List α) : State α where
  par := par
  cfg := cfg
  table := table
  voices := par.seedInit.map Voice.reset
  status := 0#32
  cmd := 0#32
  opd := 0#32
  port := []
  out := []
  outCount := 0
  seq := Seq.reset

end Reset

/-- `State.resetWith` at the values Config names. DESIGN CHOICE (log 6, 7, 8, unsafe): parameters,
configuration and table are OPEN in the spec; statements quantify over them. -/
def State.reset : State := State.resetWith Config.params Config.port Config.table

end Sys2Proof.Machine
end

