-- ==== Sys2Proof/Machine/Numerics.lean ====
section
/-! DEFINITION. Arithmetic: the conversions of R14 to R17 and the value of a binary32 (R87), in any number system;
rounding to binary32 (R63) in an exact one. -/

namespace Sys2Proof.Machine

/-! ## In any number system -/

section Generic
variable {α : Type} [Zero α] [One α] [Add α] [Sub α] [Neg α] [Mul α] [Div α] [NatCast α] [IntCast α]
  [LT α] [LE α] [DecidableLT α] [DecidableLE α] [Max α]

/-- `frac(x) = x - floor(x)` (R10). -/
def frac (N : Numerics α) (x : α) : α := x - (N.floor x : α)

/-- `a mod P = a - P*floor(a/P)` (R10). -/
def realMod (N : Numerics α) (a P : α) : α := a - P * (N.floor (a / P) : α)

/-- `HzToFrames` (R14). -/
def hzToFrames (hz sr : α) : α := sr / hz

/-- `MsToFrames` (R14). -/
def msToFrames (ms sr : α) : α := sr * ms / 1000

/-- `Pitch(note)` (R15). -/
def pitch (N : Numerics α) (note : Note) : α := 440 * N.exp2 (((note.toNat : α) - 69) / 12)

/-- `2^n` for an integer `n`, exactly. -/
def pow2 : Int → α
  | .ofNat n => ((2 ^ n : Nat) : α)
  | .negSucc n => 1 / ((2 ^ (n + 1) : Nat) : α)

/-- What a binary32 pattern stands for (R87). -/
inductive F32 (α : Type) where
  | finite (v : α)
  | infinite
  | notANumber
  deriving DecidableEq, Repr

/-- R87: `sgn = w[31]`, `e = w[30:23]`, `f = w[22:0]`. -/
def f32Decode (w : Word) : F32 α :=
  let sgn : α := if w.getLsbD 31 then -1 else 1
  let e := (w.extractLsb' 23 8).toNat
  let f := (w.extractLsb' 0 23).toNat
  if e = 255 then (if f = 0 then .infinite else .notANumber)
  else if e = 0 then .finite (sgn * pow2 (-126) * ((f : α) / 8388608))
  else .finite (sgn * pow2 ((e : Int) - 127) * (1 + (f : α) / 8388608))

end Generic

/-! ## The counters -/

/-- `FRAME_MAX` (R8). -/
def frameMax {α : Type} (par : Params α) : Nat := 2 ^ par.frameW - 1

/-- `SatAdd(a, b)` (R16). -/
def satAdd {α : Type} (par : Params α) (a b : Nat) : Nat := min (a + b) (frameMax par)

/-! ## In an exact number system: the reals, and the machine's own rationals -/

section Exact
variable {α : Type} [Field α] [LinearOrder α] [FloorRing α]

/-- The integer nearest to `x`, a tie to the even one. -/
def roundHalfEven (x : α) : Int :=
  if x - ⌊x⌋ < 1 / 2 then ⌊x⌋
  else if 1 / 2 < x - ⌊x⌋ then ⌊x⌋ + 1
  else if ⌊x⌋ % 2 = 0 then ⌊x⌋ else ⌊x⌋ + 1

/-- The exponent of `a`: the greatest `e` of `-126 .. k - 126` with `2^e <= a`, or `-126`. -/
def f32Exponent (a : α) : Nat → Int
  | 0 => -126
  | k + 1 => if pow2 ((k : Int) - 125) ≤ a then (k : Int) - 125 else f32Exponent a k

/-- The largest finite binary32. -/
def f32Max : α := 16777215 * pow2 104

/-- The pattern of the binary32 nearest to `a >= 0`, a tie to the even fraction; beyond the largest
finite one the infinity (R63). The significand is added to the exponent field, so that a significand
rounded up to `2^24` carries into it. -/
def f32Magnitude (a : α) : Nat :=
  if f32Max < a then 0x7F800000
  else (f32Exponent a 253 + 126).toNat * 8388608 + (roundHalfEven (a / pow2 (f32Exponent a 253 - 23))).toNat

/-- `toF32` (R63). A negative number that rounds to zero gives negative zero (log 19). -/
def toF32 (v : α) : Word :=
  BitVec.ofNat 32 (if v < 0 then 0x80000000 + f32Magnitude (-v) else f32Magnitude v)

/-- The numerics record of an exact number system with the functions `F`: `floor` and `toF32` as R10 and R63
define them. -/
def exactNum (F : Functions α) : Numerics α where
  toFunctions := F
  floor := Int.floor
  toF32 := toF32
  ofRat := fun q => (q : α)

end Exact

end Sys2Proof.Machine
end

