-- ==== Sys2Proof/Machine/Flags.lean ====
section
/-! DEFINITION. The status flags (R45, R200) and the derived conditions of a voice slot (R38). -/

namespace Sys2Proof.Machine

/-- The three conditions of R200; a condition's code is the number of its `STATUS` bit. -/
inductive Condition where
  | repeatOff
  | illegalCmd
  | badOperand
  deriving DecidableEq, Repr

/-- R200, first column. -/
def Condition.code : Condition → Nat
  | .repeatOff => 0
  | .illegalCmd => 1
  | .badOperand => 2

/-- The `STATUS` word with the condition's bit alone set (R45). -/
def Condition.mask (c : Condition) : Word := 1#32 <<< c.code

/-- `STATUS.X <- 1` (R13): a sticky flag, never cleared by a command (R45). -/
def setFlag {α : Type} (c : Condition) (s : State α) : State α := { s with status := s.status ||| c.mask }

/-- Whether the condition's flag is set. -/
def flagSet {α : Type} (c : Condition) (s : State α) : Bool := s.status.getLsbD c.code

/-! R38: "Every rule that needs one of these uses exactly this definition." -/

def Voice.free {α : Type} (v : Voice α) : Bool := v.cur.isNone

def Voice.sounding {α : Type} (v : Voice α) : Bool := v.cur.isSome

def Voice.active {α : Type} (v : Voice α) : Bool := v.cur.isSome && v.fade.isNone

def Voice.fading {α : Type} (v : Voice α) : Bool := v.cur.isSome && v.fade.isSome

def Voice.released {α : Type} (v : Voice α) : Bool := v.rel.isSome

/-- Active and playing `note`: what the same-note scan of NOTE_ON and the search of NOTE_OFF look for
(R185, R190). -/
def Voice.activeOn {α : Type} (note : Note) (v : Voice α) : Bool := v.active && decide (v.note = note)

end Sys2Proof.Machine
end

