-- ==== Sys2Proof/Machine/Operands.lean ====
section
/-! DEFINITION. Operand forms: the velocity word (R87, R186), the configuration (R9, R40, R42, R221), the
ranges of the parameters (R8). -/

namespace Sys2Proof.Machine

section Generic
variable {α : Type} [Zero α] [One α] [Add α] [Sub α] [Neg α] [Mul α] [Div α] [NatCast α] [IntCast α]
  [LT α] [LE α] [DecidableLT α] [DecidableLE α] [Max α]

/-! ## The velocity operand -/

/-- `VelocityOk(OPD)` and the real it stands for (R186): a number in `[0,1]`; negative zero counts as 0. -/
def velocityOf (opd : Word) : Option α :=
  match (f32Decode opd : F32 α) with
  | .finite v => if 0 ≤ v ∧ v ≤ 1 then some v else none
  | .infinite => none
  | .notANumber => none

/-! ## Well-formed configurations and parameters -/

/-- R9 of one descriptor: times not negative, sustain in `[0,1]`. -/
def adsrOk (e : Adsr α) : Bool :=
  decide (0 ≤ e.attackMs) && decide (0 ≤ e.decayMs) && decide (0 ≤ e.releaseMs) &&
    decide (0 ≤ e.sustain) && decide (e.sustain ≤ 1)

/-- A value in `[-1,1]`. -/
def bipolarOk (x : α) : Bool := decide (-1 ≤ x) && decide (x ≤ 1)

/-- R9, last condition: the wavetable has an entry, and every entry is in `[-1,1]`. -/
def tableOk (table : List α) : Bool := !table.isEmpty && table.all bipolarOk

/-- R9. The table's conditions, `TABLE_LEN >= 1` among them, are asked for the kind TABLE only, so an empty table is
well formed under another kind: DESIGN CHOICE (log 27). -/
def cfgOk (cfg : Cfg α) (table : List α) : Bool :=
  decide (0 < cfg.sampleRate) && decide (0 < cfg.lpfBaseFreq) && (decodeKind cfg.oscKind).isSome &&
    adsrOk cfg.ampEnv && adsrOk cfg.modEnv && (decide (decodeKind cfg.oscKind ≠ some .table) || tableOk table)

/-- R8: `FADE_FRAMES` is positive. -/
def fadeOk : FadeShape α → Bool
  | .ramp F => decide (0 < F)
  | .free => true

/-- The ranges of R8: `N_VOICES`, `FRAME_W`, `SEED_W` at least 1; a seed of `SEED_W` bits for each slot;
`INIT_PHASE` in `[0,1)`; `FADE_FRAMES > 0`. `TABLE_LEN >= 1` is left to `cfgOk` (log 27). -/
def paramsOk (par : Params α) (nVoices : Nat) : Bool :=
  decide (1 ≤ nVoices) && decide (1 ≤ par.frameW) && decide (1 ≤ par.seedW) &&
    decide (par.seedInit.length = nVoices) && par.seedInit.all (fun x => decide (x < 2 ^ par.seedW)) &&
    phaseOk par.initPhase && fadeOk par.fade

/-- The block was built and configured as R8 and R9 ask: the rules give a meaning to no other. -/
def State.configOk (s : State α) : Bool := paramsOk s.par s.voices.length && cfgOk s.cfg s.table

/-- The oscillator kind of a block whose configuration is well formed. -/
def State.kind? (s : State α) : Option Kind := if s.configOk then decodeKind s.cfg.oscKind else none

/-! ## The descriptors in frames (R42), recomputed where they are used -/

/-- `E.A` of a descriptor (R42). -/
def attackFrames (sr : α) (e : Adsr α) : α := msToFrames e.attackMs sr

/-- `E.D` of a descriptor (R42). -/
def decayFrames (sr : α) (e : Adsr α) : α := msToFrames e.decayMs sr

/-- `E.R` of a descriptor (R42). -/
def releaseFrames (sr : α) (e : Adsr α) : α := msToFrames e.releaseMs sr

end Generic

/-! ## The configuration port (R221) -/

/-- One field on the configuration port: a value of `Num`, or the word of `OSC_KIND`. -/
inductive PortItem (α : Type) where
  | num (v : α)
  | word (w : Word)
  deriving DecidableEq, Repr

/-- R221: fifteen fields in register-number order 0 to 14; number 1 is `OSC_KIND`. -/
def latchConfig {α : Type} : List (PortItem α) → Option (Cfg α)
  | [.num c0, .word c1, .num c2, .num c3, .num c4, .num c5, .num c6, .num c7, .num c8, .num c9, .num c10,
      .num c11, .num c12, .num c13, .num c14] =>
    some
      { sampleRate := c0, oscKind := c1, oscGain := c2, noiseGain := c3, lpfBaseFreq := c4
        ampEnv := ⟨c5, c6, c7, c8⟩, modEnv := ⟨c9, c10, c11, c12⟩, oscModDepth := c13, lpfModDepth := c14 }
  | _ => none

end Sys2Proof.Machine
end

