-- ==== Sys2Proof/Machine/Ops.lean ====
section
/-! DEFINITION. The shared operations: the guard on the configuration, the refusal of a command (the
block's only exception, R201), access to the voice slots, to `TABLE` and to `OUT`, and the words of a
host bus. -/

namespace Sys2Proof.Machine

/-! ## Guards -/

section Guards
variable {α : Type} [Zero α] [One α] [Add α] [Sub α] [Neg α] [Mul α] [Div α] [NatCast α] [IntCast α]
  [LT α] [LE α] [DecidableLT α] [DecidableLE α] [Max α]

/-- Run `f` with the oscillator kind if the configuration is well formed; otherwise refuse (R9, U1). -/
def withConfig (s : State α) (f : Kind → Result α) : Result α :=
  match s.kind? with
  | some k => f k
  | none => .refused .illFormedConfig

/-- Run `r` if the operands are in the domain of the rule; otherwise fault (R125, R135, R151). -/
def inDomain {α : Type} (ok : Bool) (r : Result α) : Result α := if ok then r else .fault .outsideDomain

/-- Run `f` on the slot, which must exist (R67). -/
def withSlot {α : Type} (s : State α) (slot : Nat) (f : Voice α → Result α) : Result α :=
  match s.voices[slot]? with
  | some v => f v
  | none => .fault .noSuchSlot

/-- Run `f` on the slot and its `CUR`; a free slot has none (R156). -/
def withSounding {α : Type} (s : State α) (slot : Nat) (f : Voice α → Nat → Result α) : Result α :=
  withSlot s slot fun v =>
    match v.cur with
    | some c => f v c
    | none => .fault .slotNotSounding

/-! ## Refusing a command (R201, R206, R207)

The block's whole exception mechanism: `refuse <Reason>` sets the status bit of its reason and changes
nothing else; there is no entry, no saved state and no return. -/

/-- The state after `refuse <Reason>` (R13, R201). -/
def refuseCommand {α : Type} (why : Condition) (s : State α) : State α := setFlag why s

/-- What an illegal first word does (R92, R200). Its words are already off the port (R88). -/
def illegalCommand (s : State α) : Result α := withConfig s fun _ => .next (refuseCommand .illegalCmd s)

end Guards

/-! ## The voice register file -/

/-- `V[slot] <- v`. -/
def State.setVoice {α : Type} (slot : Nat) (v : Voice α) (s : State α) : State α := { s with voices := s.voices.set slot v }

/-- `SeedInit(slot)` (R8). -/
def seedInitOf {α : Type} (par : Params α) (slot : Nat) : Nat := par.seedInit.getD slot 0

/-! ## The memories -/

/-- `TabRead(i)` (R61). The only reader reduces `i` modulo the length, so the default is not reached. -/
def tabRead {α : Type} [Zero α] (table : List α) (i : Nat) : α := table.getD i 0

/-- `OUT[i] <- w` (R62). -/
def OutMem.write : OutMem → Nat → Word → OutMem
  | [], i, w => [(i, w)]
  | (j, x) :: m, i, w =>
    if i < j then (i, w) :: (j, x) :: m
    else if i = j then (i, w) :: m
    else (j, x) :: OutMem.write m i w

/-- The word at `OUT[i]`, if one was written since reset. -/
def OutMem.read : OutMem → Nat → Option Word
  | [], _ => none
  | (j, x) :: m, i => if i = j then some x else OutMem.read m i

/-- The canonical form: indexes strictly rising and below `BUF_MAX`. -/
def OutMem.wfFrom : Nat → OutMem → Bool
  | _, [] => true
  | lo, (j, _) :: m => decide (lo ≤ j) && decide (j < Config.bufMax) && OutMem.wfFrom (j + 1) m

/-- `OUT` is in canonical form. -/
def OutMem.wf (m : OutMem) : Bool := OutMem.wfFrom 0 m

/-- `OutWrite(i, v)` (R13, R62). -/
def outWrite {α : Type} (N : Numerics α) (m : OutMem) (i : Nat) (v : α) : OutMem := m.write i (N.toF32 v)

/-! ## The unit operations' latches -/

/-- The value a unit operation returns, for the sequencer. -/
def State.setResult {α : Type} (v : α) (s : State α) : State α := { s with seq := { s.seq with result := v } }

/-- The plan PLAN returns, for the sequencer. -/
def State.setPlan {α : Type} (p : Plan α) (s : State α) : State α := { s with seq := { s.seq with plan := p } }

/-- Raise or drop the request to issue a waveform. -/
def State.setWaveIssue {α : Type} (b : Bool) (s : State α) : State α := { s with seq := { s.seq with waveIssue := b } }

/-! ## A host bus of bytes (R65) -/

/-- The four bytes of a word, the least significant at the lowest address. -/
def wordBytes (w : Word) : List (BitVec 8) :=
  [w.extractLsb' 0 8, w.extractLsb' 8 8, w.extractLsb' 16 8, w.extractLsb' 24 8]

/-- The word four bytes make. -/
def bytesWord : List (BitVec 8) → Option Word
  | [b0, b1, b2, b3] => some (b3 ++ b2 ++ b1 ++ b0)
  | _ => none

end Sys2Proof.Machine
end

