-- ==== Sys2Proof/Machine/Env.lean ====
section
/-! DEFINITION. The ADSR envelope (41_adsr_envelope.md). -/

namespace Sys2Proof.Machine

section Generic
variable {α : Type} [Zero α] [One α] [Add α] [Sub α] [Neg α] [Mul α] [Div α] [NatCast α] [IntCast α]
  [LT α] [LE α] [DecidableLT α] [DecidableLE α] [Max α]

/-- `Pre(x)`: attack, decay, sustain (R131). -/
def envPre (A D S x : α) : α :=
  if x < A then x / A else if x < A + D then 1 - (1 - S) * (x - A) / D else S

/-- `rel'` (R131, R132): the release point, raised to the end of decay when `ENV_RELEASE_CLAMP`; `none`
is `+inf`. -/
def releasePoint (releaseClamp : Bool) (A D : α) (rel : Option α) : Option α :=
  rel.map fun r => if releaseClamp then max r (A + D) else r

/-- `Env(A, D, S, R, o, rel)` (R131). -/
def env (releaseClamp : Bool) (A D S R o : α) (rel : Option α) : α :=
  match releasePoint releaseClamp A D rel with
  | none => envPre A D S o
  | some r' =>
    if o < r' then envPre A D S o
    else if o < r' + R then envPre A D S r' * (1 - (o - r') / R)
    else 0

/-- An envelope of the configuration at a frame offset (R42, R137, R17): `o` and `rel` are counters. -/
def envAt (par : Params α) (sr : α) (e : Adsr α) (o : Nat) (rel : Option Nat) : α :=
  env par.envReleaseClamp (attackFrames sr e) (decayFrames sr e) e.sustain (releaseFrames sr e) (o : α)
    (rel.map (Nat.cast : Nat → α))

/-- ENV.SAMPLE (R131). -/
def runEnvSample (A D S R o : α) (rel : Option α) (s : State α) : Result α :=
  withConfig s fun _ => inDomain (envOk A D S R o rel)
    (.next (s.setResult (env s.par.envReleaseClamp A D S R o rel)))

end Generic

/-- ENV.SAMPLE (R131). -/
def execEnvSample (A D S R o : Num) (rel : Option Num) (s : State) : Result := runEnvSample A D S R o rel s

end Sys2Proof.Machine
end

