-- ==== Sys2Proof/Machine/FreeNum.lean ====
section
/-! DEFINITION. The numerics record of the machine that `exec` runs: rationals, with the free functions of Config.
Config's constant asks for some functions with the stated properties to exist: here are some. They are only the
proof that the properties agree with one another; the machine's functions are not these (log 2). -/

namespace Sys2Proof.Machine

/-- The distance to the nearest integer. -/
def nearDist (x : Num) : Num := |x - round x|

theorem nearDist_lipschitz (x y : Num) : nearDist x - nearDist y ≤ |x - y| := by
  have h : nearDist x ≤ |x - round y| := round_le x (round y)
  have h' : |x - round y| ≤ |x - y| + |y - round y| := abs_sub_le x y (round y)
  unfold nearDist at *
  linarith

/-- A sine of straight lines: slope 4 or -4 everywhere. -/
def lineSine (p : Num) : Num := 1 - 4 * nearDist (p - 1 / 4)

/-- An increasing function with the value 1 at 0. -/
def rootExp (x : Num) : Num := if x < 0 then 1 / (1 - x) else 1 + x

/-- The powers of two joined by straight lines. -/
def lineExp2 (x : Num) : Num := 2 ^ ⌊x⌋ * (1 + Int.fract x)

theorem rootExp_lt {x y : Num} (h : x < y) : rootExp x < rootExp y := by
  unfold rootExp
  split
  · have hx : 0 < 1 - x := by linarith
    split
    · exact one_div_lt_one_div_of_lt (by linarith) (by linarith)
    · have : 1 / (1 - x) < 1 := by rw [div_lt_one hx]; linarith
      linarith
  · rw [if_neg (by linarith)]; linarith

theorem lineExp2_lt {x y : Num} (h : x < y) : lineExp2 x < lineExp2 y := by
  have hp : (0 : Num) < 2 ^ ⌊x⌋ := by positivity
  rcases (Int.floor_le_floor h.le).lt_or_eq with hf | hf
  · have h1 : (2 : Num) ^ (⌊x⌋ + 1) ≤ 2 ^ ⌊y⌋ := zpow_le_zpow_right₀ (by norm_num) hf
    rw [zpow_add_one₀ (by norm_num)] at h1
    have := Int.fract_lt_one x
    have := Int.fract_nonneg y
    unfold lineExp2
    nlinarith
  · have h2 : Int.fract x < Int.fract y := by unfold Int.fract; rw [← hf]; linarith
    unfold lineExp2
    rw [← hf]
    nlinarith

/-- Some functions with the properties. -/
def someFunctions : FreeFunctions where
  pi := 157 / 50
  sinTurn := lineSine
  exp := rootExp
  exp2 := lineExp2
  noiseHash := fun _ _ => 0
  fadeGain := fun _ => 0
  pi_mem := by norm_num
  sin_quarters := by decide +kernel
  sin_mem := fun p => by
    have h := abs_sub_round (p - 1 / 4)
    have h' := abs_nonneg (p - 1 / 4 - round (p - 1 / 4))
    unfold lineSine nearDist
    constructor <;> linarith
  sin_period := fun p => by
    unfold lineSine nearDist
    rw [show p + 1 - 1 / 4 = p - 1 / 4 + 1 by ring, round_add_one]
    push_cast
    rw [show p - 1 / 4 + 1 - ((round (p - 1 / 4) : Num) + 1) = p - 1 / 4 - round (p - 1 / 4) by ring]
  sin_slope := fun p q => by
    have h1 := nearDist_lipschitz (p - 1 / 4) (q - 1 / 4)
    have h2 := nearDist_lipschitz (q - 1 / 4) (p - 1 / 4)
    rw [show p - 1 / 4 - (q - 1 / 4) = p - q by ring] at h1
    rw [show q - 1 / 4 - (p - 1 / 4) = q - p by ring, abs_sub_comm] at h2
    have := abs_nonneg (p - q)
    unfold lineSine
    rw [abs_le]
    constructor <;> linarith
  exp_zero := by decide +kernel
  exp_pos := fun x => by
    unfold rootExp
    split
    · exact one_div_pos.mpr (by linarith)
    · linarith
  exp_mono := fun _ _ => rootExp_lt
  exp2_zero := by decide +kernel
  exp2_add_one := fun x => by
    unfold lineExp2
    rw [Int.floor_add_one, Int.fract_add_one, zpow_add_one₀ (by norm_num)]
    ring
  exp2_mono := fun _ _ => lineExp2_lt
  noise_mem := fun _ _ => by norm_num
  fade_mem := fun _ => by norm_num

/-- The machine's functions. -/
def freeFns : FreeFunctions := @Config.functions ⟨someFunctions⟩

/-- `sin`, through the angle in turns. -/
def freeSin (x : Num) : Num := freeFns.sinTurn (x / (2 * freeFns.pi))

/-- The functions of the machine's numbers. -/
def freeFunctions : Functions Num where
  pi := freeFns.pi
  sin := freeSin
  exp := freeFns.exp
  exp2 := freeFns.exp2
  noiseHash := freeFns.noiseHash
  fadeGain := freeFns.fadeGain

/-- The numerics record `exec` uses. -/
def freeNum : Numerics Num := exactNum freeFunctions

end Sys2Proof.Machine
end

