-- ==== Sys2Proof/Machine/Lpf.lean ====
section
/-! DEFINITION. The one-pole low-pass filter (42_one_pole_lpf.md). -/

namespace Sys2Proof.Machine

section Generic
variable {α : Type} [Zero α] [One α] [Add α] [Sub α] [Neg α] [Mul α] [Div α] [NatCast α] [IntCast α]
  [LT α] [LE α] [DecidableLT α] [DecidableLE α] [Max α]

/-- `x = exp(-2*pi*f/sr)` (R146). -/
def lpfCoeff (N : Numerics α) (f sr : α) : α := N.exp (-2 * N.pi * f / sr)

/-- `y = a0*u - b1*last` with `a0 = 1 - x`, `b1 = -x` (R146). -/
def lpfOut (x u last : α) : α := (1 - x) * u - -x * last

/-- One step of the filter of a slot (R146): the output, and the slot with it as `LPF_LAST`. -/
def lpfStep (N : Numerics α) (u f sr : α) (v : Voice α) : α × Voice α :=
  (lpfOut (lpfCoeff N f sr) u v.lpfLast, { v with lpfLast := lpfOut (lpfCoeff N f sr) u v.lpfLast })

/-- LPF.STEP (R146). On a free slot, of which no rule speaks, it runs and writes LPF_LAST: DESIGN CHOICE (log
17). -/
def runLpfStep (N : Numerics α) (slot : Nat) (u f sr : α) (s : State α) : Result α :=
  withConfig s fun _ => inDomain (lpfOk f sr) (withSlot s slot fun v =>
    .next ((s.setVoice slot (lpfStep N u f sr v).2).setResult (lpfStep N u f sr v).1))

end Generic

/-- LPF.STEP (R146). On a free slot, of which no rule speaks, it runs and writes LPF_LAST: DESIGN CHOICE (log
17). -/
def execLpfStep (slot : Nat) (u f sr : Num) (s : State) : Result := runLpfStep freeNum slot u f sr s

end Sys2Proof.Machine
end

