-- ==== Sys2Proof/Machine/Osc.lean ====
section
/-! DEFINITION. The oscillator bank (40_oscillator_bank.md): the five waveforms, the stateless form, the
phase-accumulating form, the hash-noise, in any number system; and the meanings of their opcode-table rows. -/

namespace Sys2Proof.Machine

/-! ## The rules -/

section Generic
variable {α : Type} [Zero α] [One α] [Add α] [Sub α] [Neg α] [Mul α] [Div α] [NatCast α] [IntCast α]
  [LT α] [LE α] [DecidableLT α] [DecidableLE α] [Max α]

/-- `Wave_SQUARE` (R102). -/
def waveSquare (p : α) : α := if p < 1 / 2 then 1 else -1

/-- `Wave_SAW` (R103). -/
def waveSaw (p : α) : α := 1 - 2 * p

/-- `Wave_TRIANGLE` (R104). -/
def waveTriangle (p : α) : α := if p < 1 / 2 then 1 - 4 * p else 4 * p - 3

/-- `Wave_SINE` (R105). -/
def waveSine (N : Numerics α) (p : α) : α := N.sin (2 * N.pi * p)

/-- `i0 = floor(x) mod L` at `x = p * L` (R108). -/
def tableIndex (N : Numerics α) (table : List α) (p : α) : Nat :=
  (N.floor (p * (table.length : α)) % (table.length : Int)).toNat

/-- `Wave_TABLE` (R108). -/
def waveTable (N : Numerics α) (table : List α) (p : α) : α :=
  tabRead table (tableIndex N table p) * (1 - frac N (p * (table.length : α))) +
    tabRead table ((tableIndex N table p + 1) % table.length) * frac N (p * (table.length : α))

/-- `Wave_k` (R90, R100). -/
def wave (N : Numerics α) (table : List α) : Kind → α → α
  | .square, p => waveSquare p
  | .saw, p => waveSaw p
  | .triangle, p => waveTriangle p
  | .sine, p => waveSine N p
  | .table, p => waveTable N table p

/-- `Osc_k(P, o)`, the stateless form (R110). -/
def oscStateless (N : Numerics α) (table : List α) (k : Kind) (P o : α) : α :=
  wave N table k (realMod N o P / P)

/-- The phase after a step of period `P` (R115). -/
def phaseStep (N : Numerics α) (p P : α) : α := frac N (p + 1 / P)

/-! ## On a voice slot -/

/-- The phase a step reads: `PHASE or INIT_PHASE` (R115). -/
def Voice.phaseOr {α : Type} (v : Voice α) (initPhase : α) : α := v.phase.getD initPhase

/-- One step of the phase-accumulating oscillator (R115): the sample, taken before the advance, and the
slot with the advanced phase. -/
def oscAcc (N : Numerics α) (initPhase : α) (table : List α) (k : Kind) (P : α) (v : Voice α) :
    α × Voice α :=
  (wave N table k (v.phaseOr initPhase), { v with phase := some (phaseStep N (v.phaseOr initPhase) P) })

/-- `Noise(seed, k)` (R120). -/
def noise {α : Type} (N : Numerics α) (seed k : Nat) : α := N.noiseHash seed k

/-- R120: a seed of `SEED_W` bits, an offset of `FRAME_W` bits. -/
def noiseOk {α : Type} (par : Params α) (seed k : Nat) : Bool :=
  decide (seed < 2 ^ par.seedW) && decide (k ≤ frameMax par)

/-- The wavetable, its length included, matters only to the kind TABLE (R9; DESIGN CHOICE, log 27). -/
def kindOk (k : Kind) (table : List α) : Bool := decide (k ≠ .table) || tableOk table

/-! ## The operations run by themselves -/

/-- A waveform generator: the phase latch's value in, the sample out. -/
def runWave (N : Numerics α) (k : Kind) (s : State α) : Result α :=
  withConfig s fun _ => inDomain (phaseOk s.seq.phase) (.next (s.setResult (wave N s.table k s.seq.phase)))

/-- OSC.TABLE (R108); the table must be one R9 allows. -/
def runOscTable (N : Numerics α) (s : State α) : Result α :=
  withConfig s fun _ => inDomain (tableOk s.table) (runWave N .table s)

/-- OSC.STATELESS (R110). -/
def runOscStateless (N : Numerics α) (k : Kind) (P o : α) (s : State α) : Result α :=
  withConfig s fun _ => inDomain (periodOk P && offsetOk o && kindOk k s.table)
    (.next (s.setResult (oscStateless N s.table k P o)))

/-- OSC.ACC (R115). On a free slot, of which no rule speaks, it runs and writes PHASE: DESIGN CHOICE (log 17). -/
def runOscAcc (N : Numerics α) (slot : Nat) (k : Kind) (P : α) (s : State α) : Result α :=
  withConfig s fun _ => inDomain (periodOk P && kindOk k s.table) (withSlot s slot fun v =>
    .next ((s.setVoice slot (oscAcc N s.par.initPhase s.table k P v).2).setResult
      (oscAcc N s.par.initPhase s.table k P v).1))

/-- OSC.NOISE (R120). -/
def runOscNoise (N : Numerics α) (seed k : Nat) (s : State α) : Result α :=
  withConfig s fun _ => inDomain (noiseOk s.par seed k) (.next (s.setResult (noise N seed k)))

end Generic

/-! ## The meanings -/

/-- OSC.SQUARE (R102). -/
def execOscSquare (s : State) : Result := runWave freeNum .square s

/-- OSC.SAW (R103). -/
def execOscSaw (s : State) : Result := runWave freeNum .saw s

/-- OSC.TRIANGLE (R104). -/
def execOscTriangle (s : State) : Result := runWave freeNum .triangle s

/-- OSC.SINE (R105). -/
def execOscSine (s : State) : Result := runWave freeNum .sine s

/-- OSC.TABLE (R108). -/
def execOscTable (s : State) : Result := runOscTable freeNum s

/-- OSC.STATELESS (R110). -/
def execOscStateless (k : Kind) (P o : Num) (s : State) : Result := runOscStateless freeNum k P o s

/-- OSC.ACC (R115). On a free slot, of which no rule speaks, it runs and writes PHASE: DESIGN CHOICE (log 17). -/
def execOscAcc (slot : Nat) (k : Kind) (P : Num) (s : State) : Result := runOscAcc freeNum slot k P s

/-- OSC.NOISE (R120). -/
def execOscNoise (seed k : Nat) (s : State) : Result := runOscNoise freeNum seed k s

end Sys2Proof.Machine
end

