-- ==== Sys2Proof/Machine/Plan.lean ====
section
/-! DEFINITION. Modulation, frame preparation and the voice sample (43_modulation_voice.md). -/

namespace Sys2Proof.Machine

/-- What a frame reads besides the voice: the numerics record, the parameters, the configuration, the
table and the oscillator kind. -/
structure Ctx (α : Type) where
  num : Numerics α
  par : Params α
  cfg : Cfg α
  table : List α
  kind : Kind

/-- The context of a state with oscillator kind `k`. -/
def State.ctx {α : Type} (N : Numerics α) (k : Kind) (s : State α) : Ctx α := ⟨N, s.par, s.cfg, s.table, k⟩

section Generic
variable {α : Type} [Zero α] [One α] [Add α] [Sub α] [Neg α] [Mul α] [Div α] [NatCast α] [IntCast α]
  [LT α] [LE α] [DecidableLT α] [DecidableLE α] [Max α]

/-- `FrameOffset(s, i) = SatAdd(c, i)` (R156). -/
def frameOffset {α : Type} (par : Params α) (c i : Nat) : Nat := satAdd par c i

/-- `mod`, the modulation envelope's level (R155). -/
def modLevel (c : Ctx α) (v : Voice α) (o : Nat) : α := envAt c.par c.cfg.sampleRate c.cfg.modEnv o v.rel

/-- `f_osc` (R157). -/
def oscFreq (c : Ctx α) (v : Voice α) (o : Nat) : α :=
  pitch c.num v.note * c.num.exp2 (modLevel c v o * c.cfg.oscModDepth)

/-- `f_lpf` (R158). -/
def lpfFreq (c : Ctx α) (v : Voice α) (o : Nat) : α :=
  c.cfg.lpfBaseFreq * c.num.exp2 (modLevel c v o * c.cfg.lpfModDepth)

/-- `amp` (R159). -/
def ampGain (c : Ctx α) (v : Voice α) (o : Nat) : α := envAt c.par c.cfg.sampleRate c.cfg.ampEnv o v.rel

/-- `PLAN` at frame offset `o` (R155). -/
def makePlan (c : Ctx α) (v : Voice α) (o : Nat) : Plan α where
  kind := c.kind
  period := hzToFrames (oscFreq c v o) c.cfg.sampleRate
  fLpf := lpfFreq c v o
  sampleRate := c.cfg.sampleRate
  amp := ampGain c v o
  offset := o

/-- `FadeGain(d)` (R163). -/
def fadeGain (N : Numerics α) : FadeShape α → α → α
  | .ramp F, d => if d < F then 1 - d / F else 0
  | .free, d => N.fadeGain d

/-- The fade factor of a voice at frame offset `o` (R160, R163): 1 when it is not fading. -/
def fadeFactor (c : Ctx α) (v : Voice α) (o : Nat) : α :=
  match v.fade with
  | some m => fadeGain c.num c.par.fade ((o : α) - (m : α))
  | none => 1

/-- The filter's input `u` (R160). -/
def mixInput (cfg : Cfg α) (osc noi : α) : α := osc * cfg.oscGain + noi * cfg.noiseGain

/-- `VOICE.SAMPLE` under a plan (R160): the sample, and the slot with `PHASE` and `LPF_LAST` written. -/
def voiceStep (c : Ctx α) (pl : Plan α) (v : Voice α) : α × Voice α :=
  let o := oscAcc c.num c.par.initPhase c.table pl.kind pl.period v
  let y := lpfStep c.num (mixInput c.cfg o.1 (noise c.num o.2.seed pl.offset)) pl.fLpf pl.sampleRate o.2
  (y.1 * pl.amp * fadeFactor c v pl.offset, y.2)

/-- `VOICE.SAMPLE` of a voice with `CUR = cur` in frame `i` (R155, R156, R160). -/
def voiceSample (c : Ctx α) (i cur : Nat) (v : Voice α) : α × Voice α :=
  voiceStep c (makePlan c v (frameOffset c.par cur i)) v

/-- PLAN (R155). -/
def runPlan (N : Numerics α) (slot frame : Nat) (s : State α) : Result α :=
  withConfig s fun k => inDomain (frameOk frame) (withSounding s slot fun v c =>
    .next (s.setPlan (makePlan (s.ctx N k) v (frameOffset s.par c frame))))

/-- VOICE.SAMPLE (R160). -/
def runVoiceSample (N : Numerics α) (slot frame : Nat) (s : State α) : Result α :=
  withConfig s fun k => inDomain (frameOk frame) (withSounding s slot fun v c =>
    .next ((((s.setPlan (makePlan (s.ctx N k) v (frameOffset s.par c frame))).setVoice slot
      (voiceSample (s.ctx N k) frame c v).2)).setResult (voiceSample (s.ctx N k) frame c v).1))

end Generic

/-- PLAN (R155). -/
def execPlan (slot frame : Nat) (s : State) : Result := runPlan freeNum slot frame s

/-- VOICE.SAMPLE (R160). -/
def execVoiceSample (slot frame : Nat) (s : State) : Result := runVoiceSample freeNum slot frame s

end Sys2Proof.Machine
end

