-- ==== Sys2Proof/Machine/Mix.lean ====
section
/-! DEFINITION. The voice mixer and RENDER (44_mixer_render.md). -/

namespace Sys2Proof.Machine

section Generic
variable {α : Type} [Zero α] [One α] [Add α] [Sub α] [Neg α] [Mul α] [Div α] [NatCast α] [IntCast α]
  [LT α] [LE α] [DecidableLT α] [DecidableLE α] [Max α]

/-- The slots in ascending order, each sounding one adding its sample to `acc` (R172, R174). -/
def mixVoices (c : Ctx α) (i : Nat) : α → List (Voice α) → α × List (Voice α)
  | acc, [] => (acc, [])
  | acc, v :: vs =>
    match v.cur with
    | some cur =>
      let r := voiceSample c i cur v
      let m := mixVoices c i (acc + r.1) vs
      (m.1, r.2 :: m.2)
    | none =>
      let m := mixVoices c i acc vs
      (m.1, v :: m.2)

/-- `MIX.FRAME(i)` (R172): the sum starts from 0 (R173). -/
def mixFrame (c : Ctx α) (i : Nat) (vs : List (Voice α)) : α × List (Voice α) := mixVoices c i 0 vs

/-- The frames `i, i+1, .., i+n-1` of a RENDER, each written to `OUT` (R170, R62). -/
def renderLoop (c : Ctx α) : Nat → Nat → List (Voice α) → OutMem → List (Voice α) × OutMem
  | 0, _, vs, out => (vs, out)
  | n + 1, i, vs, out =>
    renderLoop c n (i + 1) (mixFrame c i vs).2 (outWrite c.num out i (mixFrame c i vs).1)

/-! ### The same work read voice by voice (R171) -/

/-- What a slot adds to frame `i`: its sample, or nothing when it is free. -/
def frameSample (c : Ctx α) (i : Nat) (v : Voice α) : α :=
  match v.cur with
  | some cur => (voiceSample c i cur v).1
  | none => 0

/-- The slot after frame `i`. -/
def frameVoice (c : Ctx α) (i : Nat) (v : Voice α) : Voice α :=
  match v.cur with
  | some cur => (voiceSample c i cur v).2
  | none => v

/-- One slot's samples of the frames `i, .., i+n-1`, in order, and the slot after them: the source's
inner loop, "for every sample in the buffer". -/
def voiceRun (c : Ctx α) : Nat → Nat → Voice α → List α × Voice α
  | 0, _, v => ([], v)
  | n + 1, i, v =>
    (frameSample c i v :: (voiceRun c n (i + 1) (frameVoice c i v)).1, (voiceRun c n (i + 1) (frameVoice c i v)).2)

/-- The counter's advance after the last frame (R170, R176, R25). -/
def advance {α : Type} (par : Params α) (n : Nat) (v : Voice α) : Voice α := { v with cur := v.cur.map fun c => satAdd par c n }

/-- RENDER of `n` frames (R170). -/
def renderWith (N : Numerics α) (k : Kind) (n : Nat) (s : State α) : State α :=
  { s with
    voices := (renderLoop (s.ctx N k) n 0 s.voices s.out).1.map (advance s.par n)
    out := (renderLoop (s.ctx N k) n 0 s.voices s.out).2
    outCount := n }

/-- RENDER (R170). -/
def runRender (N : Numerics α) (count : Count) (s : State α) : Result α :=
  withConfig s fun k => .next (renderWith N k count.toNat s)

/-- MIX.FRAME (R172). -/
def runMixFrame (N : Numerics α) (frame : Nat) (s : State α) : Result α :=
  withConfig s fun k => inDomain (frameOk frame)
    (.next ({ s with voices := (mixFrame (s.ctx N k) frame s.voices).2 }.setResult
      (mixFrame (s.ctx N k) frame s.voices).1))

end Generic

/-- RENDER (R170). -/
def execRender (count : Count) (s : State) : Result := runRender freeNum count s

/-- MIX.FRAME (R172). -/
def execMixFrame (frame : Nat) (s : State) : Result := runMixFrame freeNum frame s

end Sys2Proof.Machine
end

