-- ==== Sys2Proof/Machine/NoteCmd.lean ====
section
/-! DEFINITION. NOTE_ON and NOTE_OFF (45_note_commands.md). -/

namespace Sys2Proof.Machine

section Generic
variable {α : Type} [Zero α] [One α] [Add α] [Sub α] [Neg α] [Mul α] [Div α] [NatCast α] [IntCast α]
  [LT α] [LE α] [DecidableLT α] [DecidableLE α] [Max α]

/-! ## NOTE_ON -/

/-- Step 1 on one slot (R185): an active voice of the note is marked fading at its `CUR`. -/
def markFading {α : Type} (note : Note) (v : Voice α) : Voice α := if v.activeOn note then { v with fade := v.cur } else v

/-- `key(t) > key(s)` of R187, where `none` is `+inf`. -/
def keyGreater : Option Nat → Option Nat → Bool
  | none, none => false
  | none, some _ => true
  | some _, none => false
  | some a, some b => decide (b < a)

/-- The scan of R187: the candidate `best` with key `key`, replaced only by a slot whose key is strictly
greater; the list starts at slot `i`. -/
def selectFrom {α : Type} (best : Nat) (key : Option Nat) (i : Nat) : List (Voice α) → Nat
  | [] => best
  | v :: vs => if keyGreater v.cur key then selectFrom i v.cur (i + 1) vs else selectFrom best key (i + 1) vs

/-- `SelectVoice` (R187): oldest first, ties to the lowest slot. -/
def selectVoice {α : Type} : List (Voice α) → Nat
  | [] => 0
  | v :: vs => selectFrom 0 v.cur 1 vs

/-- Step 3 (R185, R188): the slot re-initialised for the note. -/
def freshVoice {α : Type} [Zero α] (note : Note) (vel : α) (seed : Nat) : Voice α where
  note := note
  vel := vel
  cur := some 0
  rel := none
  fade := none
  phase := none
  lpfLast := 0
  seed := seed

/-- The voice register file after an accepted NOTE_ON (R185). -/
def noteOnVoices {α : Type} [Zero α] (par : Params α) (note : Note) (vel : α) (vs : List (Voice α)) : List (Voice α) :=
  let marked := vs.map (markFading note)
  let c := selectVoice marked
  marked.set c (freshVoice note vel (seedInitOf par c))

/-- The state after NOTE_ON (R185, R186). -/
def noteOn (note : Note) (opd : Word) (s : State α) : State α :=
  match velocityOf opd with
  | some vel => { s with voices := noteOnVoices s.par note vel s.voices }
  | none => refuseCommand .badOperand s

/-- NOTE_ON (R185, R186). -/
def runNoteOn (note : Note) (opd : Word) (s : State α) : Result α := withConfig s fun _ => .next (noteOn note opd s)

/-! ## NOTE_OFF -/

/-- The lowest slot active on the note, if any, the list starting at slot `i` (R190). -/
def activeSlotFrom {α : Type} (note : Note) (i : Nat) : List (Voice α) → Option (Nat × Voice α)
  | [] => none
  | v :: vs => if v.activeOn note then some (i, v) else activeSlotFrom note (i + 1) vs

/-- The slot NOTE_OFF acts on, and its voice (R190). -/
def activeSlot {α : Type} (note : Note) (vs : List (Voice α)) : Option (Nat × Voice α) := activeSlotFrom note 0 vs

/-- The state after NOTE_OFF (R190 to R193). -/
def noteOff {α : Type} (note : Note) (s : State α) : State α :=
  match activeSlot note s.voices with
  | none => s
  | some (a, v) =>
    match v.rel with
    | none => s.setVoice a { v with rel := v.cur }
    | some _ => setFlag .repeatOff s

/-- NOTE_OFF (R190). -/
def runNoteOff (note : Note) (s : State α) : Result α := withConfig s fun _ => .next (noteOff note s)

end Generic

/-! ## The meanings -/

/-- NOTE_ON (R185, R186). -/
def execNoteOn (note : Note) (opd : Word) (s : State) : Result := runNoteOn note opd s

/-- NOTE_OFF (R190). -/
def execNoteOff (note : Note) (s : State) : Result := runNoteOff note s

end Sys2Proof.Machine
end

