-- ==== Sys2Proof/Machine/Dispatch.lean ====
section
/-! DEFINITION. One arm per constructor of Instr. -/

namespace Sys2Proof.Machine

-- the commands, the waveforms of the kind tags, the hardwired unit operations
def exec (i : Instr) (s : State) : Host.Outcome State Fault Refusal :=
  match i with
  | .noteOn note opd => Sys2Proof.Machine.execNoteOn note opd s
  | .noteOff note => Sys2Proof.Machine.execNoteOff note s
  | .render count => Sys2Proof.Machine.execRender count s
  | .oscSquare => Sys2Proof.Machine.execOscSquare s
  | .oscSaw => Sys2Proof.Machine.execOscSaw s
  | .oscTriangle => Sys2Proof.Machine.execOscTriangle s
  | .oscSine => Sys2Proof.Machine.execOscSine s
  | .oscTable => Sys2Proof.Machine.execOscTable s
  | .oscStateless kind period offset => Sys2Proof.Machine.execOscStateless kind period offset s
  | .oscAcc slot kind period => Sys2Proof.Machine.execOscAcc slot kind period s
  | .oscNoise seed k => Sys2Proof.Machine.execOscNoise seed k s
  | .envSample a d sus r o rel => Sys2Proof.Machine.execEnvSample a d sus r o rel s
  | .lpfStep slot u f sr => Sys2Proof.Machine.execLpfStep slot u f sr s
  | .plan slot frame => Sys2Proof.Machine.execPlan slot frame s
  | .voiceSample slot frame => Sys2Proof.Machine.execVoiceSample slot frame s
  | .mixFrame frame => Sys2Proof.Machine.execMixFrame frame s

end Sys2Proof.Machine
end

