-- ==== Sys2Proof/Machine/Fetch.lean ====
section
/-! DEFINITION. Taking a command off the command port (R80, R82, R88, R20), and what the host does to put
one there. -/

namespace Sys2Proof.Machine

/-- What the sequencer finds to do. -/
inductive Fetched (α : Type) where
  /-- nothing: the block waits (R210, R224) -/
  | idle
  /-- an instruction, and the state it runs in -/
  | run (i : Instr) (s : State α)
  /-- an illegal command, and the state that refuses it -/
  | illegal (s : State α)
  /-- the configuration is not well formed (U1) -/
  | noMeaning
  deriving DecidableEq, Repr

/-- The words of a command move into the latches (R20): `CMD` gets the first, `OPD` the second word of a
two-word command; the port keeps `rest`. Once the command has completed their content has no meaning (R20, U12); that
the words stay there until the next command, and `OPD` over a one-word command, is a DESIGN CHOICE (log 10). -/
def latchWords {α : Type} (rest : List Word) (s : State α) : State α :=
  match s.port with
  | [] => s
  | w :: ws =>
    { s with
      cmd := w
      opd := if commandLength w = 2 then ws.headD s.opd else s.opd
      port := rest }

/-- The next command on the port, or the waveform issue when one is asked for (log 16). -/
def fetch {α : Type} [Zero α] [One α] [Add α] [Sub α] [Neg α] [Mul α] [Div α] [NatCast α] [IntCast α]
    [LT α] [LE α] [DecidableLT α] [DecidableLE α] [Max α] (s : State α) : Fetched α :=
  match s.kind? with
  | none => .noMeaning
  | some k =>
    if s.seq.waveIssue then .run (kindInstr k) (s.setWaveIssue false)
    else
      match decode s.port with
      | .incomplete => .idle
      | .command i rest => .run i (latchWords rest s)
      | .illegal _ rest => .illegal (latchWords rest s)

/-- The host puts words on the command port, after those already there (R66, R80). -/
def hostSend {α : Type} (ws : List Word) (s : State α) : State α := { s with port := s.port ++ ws }

/-- `s` with the instruction whose table bits are `w` where the next step takes it: a command's words at
the front of the port; a kind tag in `CFG.OSC_KIND` with the waveform issue asked for (log 20). -/
def presentWord {α : Type} (nbits w : Nat) (s : State α) : State α :=
  if nbits ≤ 8 then { s with cfg := { s.cfg with oscKind := BitVec.ofNat 32 w } }.setWaveIssue true
  else { s with port := tableWords w ++ s.port }.setWaveIssue false

end Sys2Proof.Machine
end

