-- ==== Sys2Proof/Machine/Step.lean ====
section
/-! DEFINITION. One step: one whole command (R66), or waiting for one. -/

namespace Sys2Proof.Machine

/-- The sequencer takes the next command and performs it to completion (R66); an illegal one is refused
(R201); with no complete command on the port the block holds its state (R210). -/
def step (s : State) : Host.Outcome State Fault Refusal :=
  match fetch s with
  | .idle => .next s
  | .run i t => exec i t
  | .illegal t => illegalCommand t
  | .noMeaning => .refused .illFormedConfig

/-- `s` with the instruction whose table bits are `w` where the next step takes it. -/
def State.withFetchWord (s : State) (nbits w : Nat) : State := presentWord nbits w s

end Sys2Proof.Machine
end

