-- ==== Sys2Proof/Machine/RealNum.lean ====
section
/-! DEFINITION. The exact reals of R10 as a number system: with this record the rules, the instructions and the step
(Machine/Generic.lean) run on `State ℝ`. -/

namespace Sys2Proof.Machine

/-- The mathematical functions on the reals (R10), with any `NoiseHash` and `FadeGain`. -/
noncomputable def realNum (noiseHash : Nat → Nat → ℝ) (fadeGain : ℝ → ℝ) : Numerics ℝ :=
  exactNum
    { pi := Real.pi
      sin := Real.sin
      exp := Real.exp
      exp2 := fun x => (2 : ℝ) ^ x
      noiseHash := noiseHash
      fadeGain := fadeGain }

end Sys2Proof.Machine
end

