-- ==== Sys2Proof/Machine/Sequence.lean ====
section
/-! DEFINITION. The hardwired order in which the RENDER sequencer issues the unit operations (R91, R160,
R172, R170), spelt out through `exec`. The step does not use it: RENDER is one step (R66). Statements
compare RENDER and the composite operations with it. -/

namespace Sys2Proof.Machine

/-- The state an outcome goes on in, if it does. -/
def nextOf : Result → Option State
  | .next t => some t
  | .fault _ => none
  | .refused _ => none

/-- VOICE.SAMPLE as the operations of R160: PLAN, OSC.ACC, OSC.NOISE, LPF.STEP, each issued through `exec`,
then the gains. `v` is the slot's voice before the frame. -/
def issueVoice (slot frame : Nat) (v : Voice Num) (s : State) : Option State :=
  (nextOf (exec (.plan slot frame) s)).bind fun s1 =>
  (nextOf (exec (.oscAcc slot s1.seq.plan.kind s1.seq.plan.period) s1)).bind fun s2 =>
  (nextOf (exec (.oscNoise v.seed s2.seq.plan.offset) s2)).bind fun s3 =>
  (nextOf (exec (.lpfStep slot (mixInput s.cfg s2.seq.result s3.seq.result) s3.seq.plan.fLpf
    s3.seq.plan.sampleRate) s3)).map fun s4 =>
  s4.setResult (s4.seq.result * s4.seq.plan.amp *
    (match v.fade with
      | some m => fadeGain freeNum s.par.fade ((s4.seq.plan.offset : Num) - (m : Num))
      | none => 1))

/-- MIX.FRAME as VOICE.SAMPLE issued for each sounding slot of the list, in order (R172): the sum and the
state after. -/
def issueSlots (frame : Nat) : List Nat → Num → State → Option (Num × State)
  | [], acc, s => some (acc, s)
  | slot :: rest, acc, s =>
    match s.voices[slot]? with
    | none => none
    | some v =>
      if v.sounding then
        (nextOf (exec (.voiceSample slot frame) s)).bind fun t => issueSlots frame rest (acc + t.seq.result) t
      else issueSlots frame rest acc s

/-- RENDER's frame loop as MIX.FRAME issued for `n` frames from frame `i`, each result written to `OUT`
(R170). -/
def issueFrames : Nat → Nat → State → Option State
  | 0, _, s => some s
  | n + 1, i, s =>
    (nextOf (exec (.mixFrame i) s)).bind fun t =>
      issueFrames n (i + 1) { t with out := outWrite freeNum t.out i t.seq.result }

/-- `n` steps of the phase-accumulating oscillator at one period, the samples in order and the slot after
them (R117). -/
def accRun {α : Type} [Zero α] [One α] [Add α] [Sub α] [Neg α] [Mul α] [Div α] [NatCast α] [IntCast α]
    [LT α] [LE α] [DecidableLT α] [DecidableLE α] [Max α] (N : Numerics α) (initPhase : α) (table : List α)
    (k : Kind) (P : α) : Nat → Voice α → List α × Voice α
  | 0, v => ([], v)
  | n + 1, v =>
    ((oscAcc N initPhase table k P v).1 :: (accRun N initPhase table k P n (oscAcc N initPhase table k P v).2).1,
      (accRun N initPhase table k P n (oscAcc N initPhase table k P v).2).2)

/-- The outputs of the filter with coefficient `x` on a list of inputs, from the previous output `last`
(R146). -/
def lpfRun {α : Type} [Zero α] [One α] [Add α] [Sub α] [Neg α] [Mul α] [Div α] [NatCast α] [IntCast α]
    [LT α] [LE α] [DecidableLT α] [DecidableLE α] [Max α] (x : α) : α → List α → List α
  | _, [] => []
  | last, u :: us => lpfOut x u last :: lpfRun x (lpfOut x u last) us

end Sys2Proof.Machine
end

