-- ==== Sys2Proof/Machine/Generic.lean ====
section
/-! DEFINITION. The same instructions and the same step in any number system (R8, D2). `exec` and `step` are these at
the machine's own numbers (Laws/Generic.lean). -/

namespace Sys2Proof.Machine

variable {α : Type} [Zero α] [One α] [Add α] [Sub α] [Neg α] [Mul α] [Div α] [NatCast α] [IntCast α]
  [LT α] [LE α] [DecidableLT α] [DecidableLE α] [Max α]

/-- An instruction on a block whose numbers are `α`; its own operands are rationals, read into `α`. -/
def execOn (N : Numerics α) (i : Instr) (s : State α) : Result α :=
  match i with
  | .noteOn note opd => runNoteOn note opd s
  | .noteOff note => runNoteOff note s
  | .render count => runRender N count s
  | .oscSquare => runWave N .square s
  | .oscSaw => runWave N .saw s
  | .oscTriangle => runWave N .triangle s
  | .oscSine => runWave N .sine s
  | .oscTable => runOscTable N s
  | .oscStateless kind period offset => runOscStateless N kind (N.ofRat period) (N.ofRat offset) s
  | .oscAcc slot kind period => runOscAcc N slot kind (N.ofRat period) s
  | .oscNoise seed k => runOscNoise N seed k s
  | .envSample a d sus r o rel =>
    runEnvSample (N.ofRat a) (N.ofRat d) (N.ofRat sus) (N.ofRat r) (N.ofRat o) (rel.map N.ofRat) s
  | .lpfStep slot u f sr => runLpfStep N slot (N.ofRat u) (N.ofRat f) (N.ofRat sr) s
  | .plan slot frame => runPlan N slot frame s
  | .voiceSample slot frame => runVoiceSample N slot frame s
  | .mixFrame frame => runMixFrame N frame s

/-- A step of a block whose numbers are `α` (R66, R201, R210). -/
def stepOn (N : Numerics α) (s : State α) : Result α :=
  match fetch s with
  | .idle => .next s
  | .run i t => execOn N i t
  | .illegal t => illegalCommand t
  | .noMeaning => .refused .illFormedConfig

end Sys2Proof.Machine
end

