-- ==== Sys2Proof/Machine/HostPort.lean ====
section
/-! DEFINITION. The host's other moves: reset (R220 to R222), reading STATUS (R46) and reading OUT (R64,
U6). The host moves only between steps (R68; log 24). -/

namespace Sys2Proof.Machine

/-- The reset input applied and released with `cfg` on the configuration port (R55, R220). `TABLE` and
the parameters do not change (R222); what was unspecified takes the values of `State.resetWith`; words
waiting on the port are dropped (log 13, log 25). -/
def hostReset {α : Type} [Zero α] (cfg : Cfg α) (s : State α) : State α := State.resetWith s.par cfg s.table

/-- Reset with the fifteen fields as they stand on the configuration port (R221). -/
def hostResetFrom {α : Type} [Zero α] (items : List (PortItem α)) (s : State α) : Option (State α) :=
  (latchConfig items).map fun c => hostReset c s

/-- The host reads STATUS between commands; no side effect (R46). -/
def hostReadStatus {α : Type} (s : State α) : Word := s.status

/-- The host reads `OUT[i]` (R64): an entry of the last RENDER's count, else a fault of the host (U6,
log 18). -/
def hostReadOut {α : Type} (i : Nat) (s : State α) : Host.Outcome Word Fault Refusal :=
  if i < s.outCount then
    match s.out.read i with
    | some w => .next w
    | none => .fault .outNotReadable
  else .fault .outNotReadable

end Sys2Proof.Machine
end

