-- ==== Sys2Proof/Safety.lean ====
section
/-! DEFINITION. What claims call a good state and a good run: the invariants of R39 with the ranges the
fields' rules give, and the mark of a run that met a malformed command (R202). -/

namespace Sys2Proof.Machine

/-- R202, U3, U4: the run since reset met an illegal command or a bad operand. The flags are sticky, so
they are the mark. A claim about a run takes `runRefused s = false` as its premise. -/
def runRefused {α : Type} (s : State α) : Bool := flagSet .illegalCmd s || flagSet .badOperand s

/-- A mark on the voice's time axis lies at or before its counter (R39, 1 and 2). -/
def markOk (mark cur : Option Nat) : Prop := ∀ m, mark = some m → ∃ c, cur = some c ∧ m ≤ c

/-- R39, 3: a free slot is in its reset state. -/
def freeAsReset {α : Type} [Zero α] (v : Voice α) : Prop :=
  v.cur = none → v.rel = none ∧ v.fade = none ∧ v.phase = none ∧ v.lpfLast = 0

/-- What holds of the slot numbered `slot`: R39 1 to 3; `CUR` is at most `FRAME_MAX` (R16, R30); a stored
phase is in `[0,1)` (R36); `SEED` is `SeedInit(slot)` (R37); `VEL` is in `[0,1]` (R30). -/
structure VoiceInv {α : Type} [Zero α] [One α] [LT α] [LE α] (par : Params α) (slot : Nat) (v : Voice α) : Prop where
  rel_le : markOk v.rel v.cur
  fade_le : markOk v.fade v.cur
  free_reset : freeAsReset v
  cur_le : ∀ c, v.cur = some c → c ≤ frameMax par
  phase_mem : ∀ p, v.phase = some p → 0 ≤ p ∧ p < 1
  seed_eq : v.seed = seedInitOf par slot
  vel_mem : 0 ≤ v.vel ∧ v.vel ≤ 1

/-- R39, 4: at most one slot is active on a note. -/
def activeUnique {α : Type} (vs : List (Voice α)) : Prop :=
  ∀ (note : Note) (a b : Nat) (v w : Voice α), vs[a]? = some v → vs[b]? = some w →
    v.activeOn note = true → w.activeOn note = true → a = b

/-- R39, 6: the free slots are the last ones. -/
def freeLast {α : Type} (vs : List (Voice α)) : Prop :=
  ∀ (a b : Nat) (v w : Voice α), a ≤ b → vs[a]? = some v → vs[b]? = some w → v.free = true → w.free = true

/-- The invariant of the block. -/
structure BlockInv {α : Type} [Zero α] [One α] [LT α] [LE α] (s : State α) : Prop where
  voice : ∀ (slot : Nat) (v : Voice α), s.voices[slot]? = some v → VoiceInv s.par slot v
  unique : activeUnique s.voices
  freeSlots : freeLast s.voices
  /-- `STATUS[31:3]` reads 0 (R45) -/
  status_reserved : s.status.extractLsb' 3 29 = 0#29
  /-- `OUT` is in canonical form -/
  out_wf : s.out.wf = true
  /-- every entry of the last RENDER's count was written (R64) -/
  out_written : ∀ i, i < s.outCount → (s.out.read i).isSome = true
  outCount_le : s.outCount ≤ Config.bufMax

/-! ## Comparing two states -/

/-- A next state changed by `f`; a fault or refusal as it is. -/
def mapNext {α : Type} (f : State α → State α) : Result α → Result α
  | .next t => .next (f t)
  | .fault r => .fault r
  | .refused r => .refused r

/-- The state with every `VEL` replaced by 0: what is left when velocities are not looked at (R32). -/
def eraseVel {α : Type} [Zero α] (s : State α) : State α := { s with voices := s.voices.map fun v => { v with vel := 0 } }

/-- The state with other contents in STATUS and in the command latches (R20, R46). -/
def relatch {α : Type} (status cmd opd : Word) (s : State α) : State α := { s with status := status, cmd := cmd, opd := opd }

/-- Two numerics records that differ at most in `NoiseHash` and `FadeGain`. -/
def sameFunctions {α : Type} (N N' : Numerics α) : Prop :=
  N.pi = N'.pi ∧ N.sin = N'.sin ∧ N.exp = N'.exp ∧ N.exp2 = N'.exp2 ∧ N.floor = N'.floor ∧ N.toF32 = N'.toF32

/-- Everything but the voice register file is as before. -/
def sameButVoices {α : Type} (s t : State α) : Prop := t = { s with voices := t.voices }

/-- Everything but the voice register file and the unit latches is as before. -/
def sameButVoicesSeq {α : Type} (s t : State α) : Prop := t = { s with voices := t.voices, seq := t.seq }

/-! ## What a number system's functions must give -/

section Functions
variable {α : Type} [Field α] [LinearOrder α]

/-- R118: the change of output between a phase `p` and the phase a step of period `P` later. SINE: at most `2*pi/P`.
TRIANGLE: at most `4/P`. TABLE: at most `L*M/P` where neighbouring entries, the last and the first among them, are
within `M`. SAW, when the step does not wrap: exactly `2/P`. SQUARE, when the step stays in one half: 0. -/
def StepBounded (N : Numerics α) : Prop :=
  ∀ (table : List α) (p P q : α), 0 ≤ p → p < 1 → 0 < P → q = phaseStep N p P →
    |wave N table .sine q - wave N table .sine p| ≤ 2 * N.pi / P ∧
    |wave N table .triangle q - wave N table .triangle p| ≤ 4 / P ∧
    (∀ M, table ≠ [] →
      (∀ n a b, table[n]? = some a → table[if n + 1 = table.length then 0 else n + 1]? = some b → |b - a| ≤ M) →
      |wave N table .table q - wave N table .table p| ≤ (table.length : α) * M / P) ∧
    (p + 1 / P < 1 →
      q = p + 1 / P ∧ |wave N table .saw q - wave N table .saw p| = 2 / P ∧
      (p + 1 / P < 1 / 2 ∨ 1 / 2 ≤ p → wave N table .square q = wave N table .square p))

/-- R147: the coefficient is between 0 and 1, falls as `f` rises, is at most `exp(-pi)` from half the sample rate on
and below it beyond, and the outputs never leave the bound of the inputs and the first previous output. -/
def FilterBounded (N : Numerics α) : Prop :=
  ∀ f sr : α, 0 < f → 0 < sr →
    0 < lpfCoeff N f sr ∧ lpfCoeff N f sr < 1 ∧
    (∀ f', f < f' → lpfCoeff N f' sr < lpfCoeff N f sr) ∧
    (sr / 2 ≤ f → lpfCoeff N f sr ≤ N.exp (-N.pi)) ∧ (sr / 2 < f → lpfCoeff N f sr < N.exp (-N.pi)) ∧
    (∀ (M last : α) (us : List α), |last| ≤ M → (∀ u ∈ us, |u| ≤ M) →
      ∀ y ∈ lpfRun (lpfCoeff N f sr) last us, |y| ≤ M)

end Functions

end Sys2Proof.Machine
end

