-- ==== Sys2Proof/Certificates/Slice0/Obligations.lean ====
section
/-! DEFINITION. The statements for the provers. -/

open Sys2Proof Sys2Proof.Machine

/-! ## Encoding -/

/-- Words written out from the tables of R80 to R85 and R90, decoded (vectors T80 to T91). -/
def Obligations.KnownWordsDecode : Prop :=
  decode [0x01000045#32, 0x3F800000#32] = .command (.noteOn 69#7 0x3F800000#32) [] ∧
  decode [0x02000045#32] = .command (.noteOff 69#7) [] ∧
  decode [0x03000100#32] = .command (.render 256#24) [] ∧
  decode [0x00000000#32] = .illegal .unassignedOpcode [] ∧
  decode [0x02000080#32] = .illegal .reservedBits [] ∧
  decode [0x01800045#32, 0x3F800000#32] = .illegal .reservedBits [] ∧
  decodeKind 4#32 = some .table ∧ decodeKind 5#32 = none

/-- Decoding the encoding of an instruction gives it back, with any words after it (R83 to R85, R90). -/
def Obligations.DecodeOfEncode : Prop :=
  ∀ (i : Instr) (rest : List Word),
    (∀ ws, encode i = .port ws → decode (ws ++ rest) = .command i rest) ∧
    (∀ t, encode i = .tag t → (decodeKind (t.setWidth 32)).map kindInstr = some i)

/-- A word sequence that decodes to a command is that command's encoding: each command has one. -/
def Obligations.EncodeOfDecode : Prop :=
  ∀ (ws rest : List Word) (i : Instr), decode ws = .command i rest → ∃ pre, encode i = .port pre ∧ ws = pre ++ rest

/-- R82, with R88 for the words consumed: which words are which command, on every port whose first command has
arrived whole. -/
def Obligations.FirstWordDecidesCommand : Prop :=
  ∀ (w : Word) (ws : List Word),
    (0x02000000 ≤ w.toNat ∧ w.toNat < 0x02000080 →
      decode (w :: ws) = .command (.noteOff (BitVec.ofNat 7 w.toNat)) ws) ∧
    (0x03000000 ≤ w.toNat ∧ w.toNat < 0x04000000 →
      decode (w :: ws) = .command (.render (BitVec.ofNat 24 w.toNat)) ws) ∧
    ((w.toNat < 0x01000000 ∨ 0x02000080 ≤ w.toNat ∧ w.toNat < 0x03000000 ∨ 0x04000000 ≤ w.toNat) →
      ∃ why, decode (w :: ws) = .illegal why ws) ∧
    (∀ opd rest, ws = opd :: rest →
      (0x01000000 ≤ w.toNat ∧ w.toNat < 0x01000080 →
        decode (w :: ws) = .command (.noteOn (BitVec.ofNat 7 w.toNat) opd) rest) ∧
      (0x01000080 ≤ w.toNat ∧ w.toNat < 0x02000000 → ∃ why, decode (w :: ws) = .illegal why rest))

/-! ## binary32 -/

/-- R186: the accepted patterns, and the refusal of the others. -/
def Obligations.VelocityCheck : Prop :=
  (∀ opd : Word, (velocityOf opd : Option ℚ).isSome = true ↔ opd.toNat ≤ 0x3F800000 ∨ opd = 0x80000000#32) ∧
  velocityOf 0x80000000#32 = some (0 : ℚ) ∧
  (∀ (opd : Word) (v : ℚ), velocityOf opd = some v → f32Decode opd = .finite v ∧ 0 ≤ v ∧ v ≤ 1) ∧
  (∀ (note : Note) (opd : Word) (s : State), s.configOk = true → (velocityOf opd : Option ℚ) = none →
    exec (.noteOn note opd) s = .next { s with status := s.status ||| 4#32 })

/-- R63: `toF32` fixes every finite binary32 but negative zero, whose value it sends to zero. -/
def Obligations.ToF32FixesBinary32 : Prop :=
  ∀ (w : Word) (v : ℚ), f32Decode w = .finite v → toF32 v = if w = 0x80000000#32 then 0#32 else w

/-- R63: `toF32 v` is the binary32 nearest to `v`, a tie goes to the even fraction, and a `v` beyond the
largest finite binary32 goes to the infinity of its sign. -/
def Obligations.ToF32IsNearest : Prop :=
  (∀ v : ℚ, |v| ≤ f32Max → ∃ u : ℚ, f32Decode (toF32 v) = .finite u ∧
    ∀ (w : Word) (x : ℚ), f32Decode w = .finite x →
      |v - u| ≤ |v - x| ∧ (|v - u| = |v - x| → x ≠ u → (toF32 v).getLsbD 0 = false)) ∧
  (∀ v : ℚ, f32Max < v → toF32 v = 0x7F800000#32) ∧
  (∀ v : ℚ, v < -f32Max → toF32 v = 0xFF800000#32)

/-! ## The oscillator bank -/

/-- R102 to R104: OSC.SQUARE, OSC.SAW and OSC.TRIANGLE complete on every phase, with these results, and
change nothing but the result latch. -/
def Obligations.SquareSawTriangleResults : Prop :=
  ∀ s : State, s.configOk = true → 0 ≤ s.seq.phase → s.seq.phase < 1 →
    exec .oscSquare s = .next (s.setResult (if s.seq.phase < 1 / 2 then 1 else -1)) ∧
    exec .oscSaw s = .next (s.setResult (1 - 2 * s.seq.phase)) ∧
    exec .oscTriangle s =
      .next (s.setResult (if s.seq.phase < 1 / 2 then 1 - 4 * s.seq.phase else 4 * s.seq.phase - 3))

/-- R105: OSC.SINE completes on every phase; its result is in `[-1,1]`, and exact at the quarter turns. -/
def Obligations.SineResult : Prop :=
  ∀ s : State, s.configOk = true → 0 ≤ s.seq.phase → s.seq.phase < 1 →
    ∃ y : ℚ, exec .oscSine s = .next (s.setResult y) ∧ -1 ≤ y ∧ y ≤ 1 ∧
      (s.seq.phase = 0 → y = 0) ∧ (s.seq.phase = 1 / 4 → y = 1) ∧
      (s.seq.phase = 1 / 2 → y = 0) ∧ (s.seq.phase = 3 / 4 → y = -1)

/-- R105 over the exact reals. -/
def Obligations.SineIsTheRealSine : Prop :=
  ∀ (nh : Nat → Nat → ℝ) (fg : ℝ → ℝ) (table : List ℝ) (p : ℝ),
    wave (realNum nh fg) table .sine p = Real.sin (2 * Real.pi * p) ∧
    wave (realNum nh fg) table .sine 0 = 0 ∧ wave (realNum nh fg) table .sine (1 / 4) = 1 ∧
    wave (realNum nh fg) table .sine (1 / 2) = 0 ∧ wave (realNum nh fg) table .sine (3 / 4) = -1

/-- R108: OSC.TABLE completes on every phase, interpolating between entry `n` and the next one, the last
cell wrapping to entry 0. -/
def Obligations.TableResult : Prop :=
  ∀ s : State, s.configOk = true → tableOk s.table = true → 0 ≤ s.seq.phase → s.seq.phase < 1 →
    ∃ (n : Nat) (t a b : ℚ), s.seq.phase * s.table.length = n + t ∧ 0 ≤ t ∧ t < 1 ∧
      s.table[n]? = some a ∧ s.table[if n + 1 = s.table.length then 0 else n + 1]? = some b ∧
      exec .oscTable s = .next (s.setResult (a * (1 - t) + b * t))

/-- R110: OSC.STATELESS completes on its domain and returns the waveform at `frac(o/P)`. -/
def Obligations.StatelessResult : Prop :=
  ∀ (k : Kind) (P o : ℚ) (s : State), s.configOk = true → (k = .table → tableOk s.table = true) →
    0 < P → 0 ≤ o →
    exec (.oscStateless k P o) s = .next (s.setResult (wave freeNum s.table k (Int.fract (o / P))))

/-- R111, in every exact number system: the stateless form is periodic. -/
def Obligations.StatelessPeriodic : Prop :=
  ∀ (α : Type) [Field α] [LinearOrder α] [IsStrictOrderedRing α] [FloorRing α]
    (F : Functions α) (table : List α) (k : Kind) (P o : α), 0 < P → 0 ≤ o →
    oscStateless (exactNum F) table k P o = oscStateless (exactNum F) table k P (o + P)

/-- R112, over the exact reals and for the machine's own numbers: a waveform stays in `[-1,1]`. -/
def Obligations.WavesInRange : Prop :=
  (∀ (nh : Nat → Nat → ℝ) (fg : ℝ → ℝ) (table : List ℝ) (k : Kind) (p : ℝ), 0 ≤ p → p < 1 → table ≠ [] →
    (∀ x ∈ table, -1 ≤ x ∧ x ≤ 1) →
    -1 ≤ wave (realNum nh fg) table k p ∧ wave (realNum nh fg) table k p ≤ 1) ∧
  (∀ (table : List ℚ) (k : Kind) (p : ℚ), 0 ≤ p → p < 1 → table ≠ [] → (∀ x ∈ table, -1 ≤ x ∧ x ≤ 1) →
    -1 ≤ wave freeNum table k p ∧ wave freeNum table k p ≤ 1)

/-- R115: OSC.ACC completes on its domain; the sample is taken at the stored phase (INIT_PHASE when unset),
then the phase advances by `1/P` and wraps; nothing else changes. For a free slot, of which no rule speaks, this is
the model's choice (log 17). -/
def Obligations.AccumulatorStep : Prop :=
  ∀ (slot : Nat) (k : Kind) (P : ℚ) (s : State) (v : Voice ℚ), s.configOk = true →
    (k = .table → tableOk s.table = true) → 0 < P → s.voices[slot]? = some v →
    exec (.oscAcc slot k P) s =
      .next ((s.setVoice slot { v with phase := some (Int.fract (v.phase.getD s.par.initPhase + 1 / P)) }).setResult
        (wave freeNum s.table k (v.phase.getD s.par.initPhase)))

/-- R117, in every exact number system: at a constant period, from an unset phase with INIT_PHASE 0, the
accumulating form returns the stateless form's samples. -/
def Obligations.AccumulatorAgreesWithStateless : Prop :=
  ∀ (α : Type) [Field α] [LinearOrder α] [IsStrictOrderedRing α] [FloorRing α]
    (F : Functions α) (table : List α) (k : Kind) (P : α) (v : Voice α) (n : Nat), 0 < P → v.phase = none →
    (∀ j, j < n → (accRun (exactNum F) 0 table k P n v).1[j]? = some (oscStateless (exactNum F) table k P (j : α))) ∧
    (accRun (exactNum F) 0 table k P (n + 1) v).2.phase = some (Int.fract (((n : α) + 1) / P))

/-- R118, over the exact reals and for the machine's own numbers: how far a step of period `P` moves each
waveform's output, for SAW and SQUARE away from their jumps. -/
def Obligations.PhaseContinuity : Prop :=
  (∀ (nh : Nat → Nat → ℝ) (fg : ℝ → ℝ), StepBounded (realNum nh fg)) ∧ StepBounded freeNum

/-- R120: OSC.NOISE completes on its domain; the result is in `[-1,1]` and the same in every state. -/
def Obligations.NoiseResult : Prop :=
  ∀ seed k : Nat, ∃ y : ℚ, -1 ≤ y ∧ y ≤ 1 ∧
    ∀ s : State, s.configOk = true → seed < 2 ^ s.par.seedW → k ≤ frameMax s.par →
      exec (.oscNoise seed k) s = .next (s.setResult y)

/-! ## The envelope -/

/-- R131, R132: ENV.SAMPLE completes on its domain and returns, stage by stage, the level of the first case
that holds; `pre` is the level before the release. -/
def Obligations.EnvelopeResult : Prop :=
  ∀ (A D S R o : ℚ) (rel : Option ℚ) (s : State), s.configOk = true → 0 ≤ A → 0 ≤ D → 0 ≤ S → S ≤ 1 → 0 ≤ R →
    0 ≤ o → (∀ r, rel = some r → 0 ≤ r) →
    ∃ (pre : ℚ → ℚ) (y : ℚ), exec (.envSample A D S R o rel) s = .next (s.setResult y) ∧
      (∀ x, x < A → pre x = x / A) ∧
      (∀ x, A ≤ x → x < A + D → pre x = 1 - (1 - S) * (x - A) / D) ∧
      (∀ x, A + D ≤ x → pre x = S) ∧
      (rel = none → y = pre o) ∧
      (∀ r r', rel = some r → r' = (if s.par.envReleaseClamp then max r (A + D) else r) →
        (o < r' → y = pre o) ∧
        (r' ≤ o → o < r' + R → y = pre r' * (1 - (o - r') / R)) ∧
        (r' ≤ o → r' + R ≤ o → y = 0))

/-- R134, values and range, in every exact number system. -/
def Obligations.EnvelopeRangeAndThresholds : Prop :=
  ∀ (α : Type) [Field α] [LinearOrder α] [IsStrictOrderedRing α]
    (clampOn : Bool) (A D S R : α) (rel : Option α), 0 < A → 0 < D → 0 < R → 0 ≤ S → S ≤ 1 →
    (∀ r, rel = some r → 0 ≤ r) →
    (∀ o, 0 ≤ o → 0 ≤ env clampOn A D S R o rel ∧ env clampOn A D S R o rel ≤ 1) ∧
    env clampOn A D S R 0 rel = 0 ∧
    (clampOn = true ∨ rel = none ∨ (∃ r, rel = some r ∧ A + D < r) →
      env clampOn A D S R A rel = 1 ∧ env clampOn A D S R (A + D) rel = S) ∧
    (∀ r, rel = some r → env clampOn A D S R ((if clampOn then max r (A + D) else r) + R) rel = 0) ∧
    (rel = none → ∀ o, A + D ≤ o → env clampOn A D S R o rel = S)

/-- R134, monotonicity with the clamp, in every exact number system. -/
def Obligations.EnvelopeMonotone : Prop :=
  ∀ (α : Type) [Field α] [LinearOrder α] [IsStrictOrderedRing α]
    (A D S R : α) (rel : Option α) (x y : α), 0 < A → 0 < D → 0 < R → 0 ≤ S → S ≤ 1 → 0 ≤ x → x ≤ y →
    (y ≤ A → env true A D S R x rel ≤ env true A D S R y rel) ∧
    (A ≤ x → env true A D S R y rel ≤ env true A D S R x rel)

/-- R134, R132: over the exact reals the envelope is continuous in both settings, a release during attack or
decay included. -/
def Obligations.EnvelopeContinuous : Prop :=
  ∀ (clampOn : Bool) (A D S R : ℝ) (rel : Option ℝ), 0 < A → 0 < D → 0 < R →
    Continuous fun o : ℝ => env clampOn A D S R o rel

/-! ## The filter -/

/-- R146: LPF.STEP completes on its domain; the output is the recurrence, it becomes `LPF_LAST`, nothing
else changes. For a free slot, of which no rule speaks, this is the model's choice (log 17). -/
def Obligations.FilterStep : Prop :=
  ∀ (slot : Nat) (u f sr x y : ℚ) (s : State) (v : Voice ℚ), s.configOk = true → 0 < f → 0 < sr →
    s.voices[slot]? = some v → x = freeNum.exp (-2 * freeNum.pi * f / sr) → y = (1 - x) * u + x * v.lpfLast →
    exec (.lpfStep slot u f sr) s = .next ((s.setVoice slot { v with lpfLast := y }).setResult y)

/-- R147, over the exact reals and for the machine's own numbers: the coefficient's range, its decrease in `f`, its
bound from half the sample rate on, and the output a mean of input and previous output that never leaves their
bound. -/
def Obligations.FilterCoefficientRange : Prop :=
  (∀ (nh : Nat → Nat → ℝ) (fg : ℝ → ℝ), FilterBounded (realNum nh fg)) ∧ FilterBounded freeNum

/-- R148 over the exact reals, for every cutoff: the impulse response from rest is `(1 - x) * x^n`, positive,
strictly decreasing, tending to 0. -/
def Obligations.FilterImpulseResponse : Prop :=
  ∀ (nh : Nat → Nat → ℝ) (fg : ℝ → ℝ) (f sr x : ℝ) (y : Nat → ℝ), 0 < f → 0 < sr →
    x = lpfCoeff (realNum nh fg) f sr →
    (∀ n, (lpfRun x 0 (1 :: List.replicate n 0))[n]? = some (y n)) →
    (∀ n, y n = (1 - x) * x ^ n ∧ 0 < y n ∧ y (n + 1) < y n) ∧ Filter.Tendsto y Filter.atTop (nhds 0)

/-! ## Frame preparation, the voice sample, the mixer -/

/-- R155 to R159: PLAN completes on every sounding slot, and this is the plan, each envelope from its own
descriptor with its times in frames (R14, R42, R137); nothing else changes. A negative depth lowers the
oscillator's frequency as the modulation rises (R157). -/
def Obligations.PlanResult : Prop :=
  ∀ (slot frame cur o : Nat) (k : Kind) (s : State) (v : Voice ℚ) (m amp base fosc : ℚ),
    s.kind? = some k → frame < Config.bufMax → s.voices[slot]? = some v → v.cur = some cur →
    o = min (cur + frame) (2 ^ s.par.frameW - 1) →
    m = env s.par.envReleaseClamp (s.cfg.sampleRate * s.cfg.modEnv.attackMs / 1000)
      (s.cfg.sampleRate * s.cfg.modEnv.decayMs / 1000) s.cfg.modEnv.sustain
      (s.cfg.sampleRate * s.cfg.modEnv.releaseMs / 1000) (o : ℚ) (v.rel.map fun r : Nat => (r : ℚ)) →
    amp = env s.par.envReleaseClamp (s.cfg.sampleRate * s.cfg.ampEnv.attackMs / 1000)
      (s.cfg.sampleRate * s.cfg.ampEnv.decayMs / 1000) s.cfg.ampEnv.sustain
      (s.cfg.sampleRate * s.cfg.ampEnv.releaseMs / 1000) (o : ℚ) (v.rel.map fun r : Nat => (r : ℚ)) →
    base = 440 * freeNum.exp2 (((v.note.toNat : ℚ) - 69) / 12) →
    fosc = base * freeNum.exp2 (m * s.cfg.oscModDepth) →
    exec (.plan slot frame) s =
      .next (s.setPlan
        { kind := k, period := s.cfg.sampleRate / fosc
          fLpf := s.cfg.lpfBaseFreq * freeNum.exp2 (m * s.cfg.lpfModDepth)
          sampleRate := s.cfg.sampleRate, amp := amp, offset := o }) ∧
    0 ≤ m ∧ m ≤ 1 ∧ 0 ≤ amp ∧ amp ≤ 1 ∧
    0 < fosc ∧ 0 < s.cfg.sampleRate / fosc ∧ 0 < s.cfg.lpfBaseFreq * freeNum.exp2 (m * s.cfg.lpfModDepth) ∧
    (s.cfg.oscModDepth = 0 → fosc = base) ∧
    (s.cfg.oscModDepth < 0 → ∀ m', m < m' → base * freeNum.exp2 (m' * s.cfg.oscModDepth) < fosc)

/-- R160, R161: VOICE.SAMPLE completes on every sounding slot and is PLAN, OSC.ACC, OSC.NOISE and LPF.STEP
issued in that order, and the gains. -/
def Obligations.VoiceSampleIsItsUnits : Prop :=
  ∀ (slot frame cur : Nat) (s : State) (v : Voice ℚ), s.configOk = true → frame < Config.bufMax →
    s.voices[slot]? = some v → v.cur = some cur → v.seed < 2 ^ s.par.seedW →
    ∃ t, issueVoice slot frame v s = some t ∧ exec (.voiceSample slot frame) s = .next t

/-- R172 to R174: MIX.FRAME completes, and is VOICE.SAMPLE issued once for each sounding slot in ascending
order, the samples added from 0. -/
def Obligations.MixFrameIsItsVoices : Prop :=
  ∀ (frame : Nat) (s : State), s.configOk = true → frame < Config.bufMax →
    ∃ (acc : ℚ) (t u : State), issueSlots frame (List.range s.voices.length) 0 s = some (acc, t) ∧
      exec (.mixFrame frame) s = .next u ∧ u.seq.result = acc ∧ u.voices = t.voices ∧ sameButVoicesSeq s u

/-- R170: RENDER completes for every count and is MIX.FRAME and OutWrite for each frame in turn, then the
advance of every counter. -/
def Obligations.RenderIsItsFrames : Prop :=
  ∀ (count : Count) (s : State), s.configOk = true →
    ∃ t, issueFrames count.toNat 0 s = some t ∧
      exec (.render count) s =
        .next { t with voices := t.voices.map (advance s.par count.toNat), outCount := count.toNat, seq := s.seq }

/-- R171, R62: RENDER read voice by voice, as the source nests its loops. `OUT[i]` is `toF32` of the sum of
the slots' samples of frame `i`; entries beyond the count keep what they held; no field but the slots, `OUT`
and the count changes. -/
def Obligations.RenderVoiceByVoice : Prop :=
  ∀ (count : Count) (s : State) (k : Kind), s.kind? = some k →
    ∃ t, exec (.render count) s = .next t ∧
      (∀ slot : Nat, t.voices[slot]? =
        (s.voices[slot]?).map fun v => advance s.par count.toNat (voiceRun (s.ctx freeNum k) count.toNat 0 v).2) ∧
      (∀ i, i < count.toNat → t.out.read i =
        some (toF32 (s.voices.map fun v => ((voiceRun (s.ctx freeNum k) count.toNat 0 v).1)[i]?.getD 0).sum)) ∧
      (∀ j, count.toNat ≤ j → t.out.read j = s.out.read j) ∧
      t = { s with voices := t.voices, out := t.out, outCount := count.toNat }

/-- R177: RENDER of no frames has no effect (but that the last RENDER's count is now 0). -/
def Obligations.RenderNothing : Prop :=
  ∀ s : State, s.configOk = true → (∀ v ∈ s.voices, ∀ c, v.cur = some c → c ≤ frameMax s.par) →
    exec (.render 0#24) s = .next { s with outCount := 0 }

/-- R224, R173: with no sounding slot RENDER writes `n` zeros and leaves the slots as they are. -/
def Obligations.RenderSilence : Prop :=
  ∀ (count : Count) (s : State), s.configOk = true → (∀ v ∈ s.voices, v.cur = none) →
    ∃ t, exec (.render count) s = .next t ∧ t.voices = s.voices ∧
      (∀ i, i < count.toNat → t.out.read i = some 0#32)

/-- R179: one RENDER of `a + b` frames, or two of `a` and `b`: the same frames and the same slots. -/
def Obligations.RenderSplits : Prop :=
  ∀ (a b ab : Count) (s t u w : State), ab.toNat = a.toNat + b.toNat →
    exec (.render a) s = .next t → exec (.render b) t = .next u → exec (.render ab) s = .next w →
    u.voices = w.voices ∧
    (∀ i, i < a.toNat → t.out.read i = w.out.read i) ∧
    (∀ i, i < b.toNat → u.out.read i = w.out.read (a.toNat + i))

/-- R164, R159: a voice past its end adds exactly 0, and its oscillator and filter still run under the frame's
plan: PHASE advances by the plan's period, LPF_LAST is the filter's output on the mixed input. -/
def Obligations.EndedVoiceAddsZero : Prop :=
  ∀ (s : State) (k : Kind) (v : Voice ℚ) (cur r i : Nat) (pl : Plan ℚ) (AD p u x : ℚ),
    s.kind? = some k → v.cur = some cur → v.rel = some r →
    AD = s.cfg.sampleRate * s.cfg.ampEnv.attackMs / 1000 + s.cfg.sampleRate * s.cfg.ampEnv.decayMs / 1000 →
    (if s.par.envReleaseClamp then max (r : ℚ) AD else r) + s.cfg.sampleRate * s.cfg.ampEnv.releaseMs / 1000 ≤
      (frameOffset s.par cur i : ℚ) →
    pl = makePlan (s.ctx freeNum k) v (frameOffset s.par cur i) →
    p = v.phase.getD s.par.initPhase →
    u = wave freeNum s.table k p * s.cfg.oscGain + freeNum.noiseHash v.seed (frameOffset s.par cur i) * s.cfg.noiseGain →
    x = freeNum.exp (-2 * freeNum.pi * pl.fLpf / s.cfg.sampleRate) →
    frameSample (s.ctx freeNum k) i v = 0 ∧
    frameVoice (s.ctx freeNum k) i v =
      { v with phase := some (Int.fract (p + 1 / pl.period)), lpfLast := (1 - x) * u + x * v.lpfLast }

/-- R162, R163: with a noise gain of 0 and no fading voice a RENDER does not depend on `NoiseHash` or
`FadeGain`, on any field of numbers. -/
def Obligations.NoiseAndFadeUnread : Prop :=
  ∀ (α : Type) [Field α] [LinearOrder α] (N N' : Numerics α) (k : Kind) (n : Nat) (s : State α), sameFunctions N N' →
    s.cfg.noiseGain = 0 → (∀ v ∈ s.voices, v.fade = none) → renderWith N k n s = renderWith N' k n s

/-- R163: a fading voice's PHASE and LPF_LAST evolve exactly as if it were not fading, and its sample is
that of the same voice not fading times the gain `g` at `d` frames since the mark: the ramp `1 - d/F`, then 0, or
the free function of `d` alone; in `[0,1]` either way. -/
def Obligations.FadeTouchesOnlyTheGain : Prop :=
  ∀ (s : State) (k : Kind) (i m cur : Nat) (v : Voice ℚ) (d g : ℚ), s.kind? = some k → v.cur = some cur →
    v.fade = some m → m ≤ cur → cur ≤ frameMax s.par →
    d = ((min (cur + i) (2 ^ s.par.frameW - 1) : Nat) : ℚ) - (m : ℚ) →
    (∀ F, s.par.fade = .ramp F → g = if d < F then 1 - d / F else 0) →
    (s.par.fade = .free → g = freeNum.fadeGain d) →
    frameVoice (s.ctx freeNum k) i v = { frameVoice (s.ctx freeNum k) i { v with fade := none } with fade := some m } ∧
    0 ≤ d ∧ 0 ≤ g ∧ g ≤ 1 ∧
    frameSample (s.ctx freeNum k) i v = frameSample (s.ctx freeNum k) i { v with fade := none } * g

/-! ## NOTE_ON and NOTE_OFF -/

/-- R187: the scan finds the lowest slot whose key is the greatest, an unset CUR being `+inf`. -/
def Obligations.SelectVoiceOldestFirst : Prop :=
  ∀ vs : List (Voice ℚ), vs ≠ [] → ∃ w, vs[selectVoice vs]? = some w ∧
    (∀ v ∈ vs, w.cur = none ∨ ∃ a b, w.cur = some a ∧ v.cur = some b ∧ b ≤ a) ∧
    (∀ j v, j < selectVoice vs → vs[j]? = some v →
      ∃ b, v.cur = some b ∧ (w.cur = none ∨ ∃ a, w.cur = some a ∧ b < a))

/-- R185, R188: NOTE_ON completes for every accepted velocity: every active voice of the note is marked
fading at its CUR, the slot R187 chooses starts the note afresh, and nothing else changes. That the recorded count
stays as well is the model's choice (log 18). -/
def Obligations.NoteOnResult : Prop :=
  ∀ (note : Note) (opd : Word) (vel : ℚ) (s : State), s.configOk = true → velocityOf opd = some vel →
    ∃ t c, exec (.noteOn note opd) s = .next t ∧ sameButVoices s t ∧ c < s.voices.length ∧
      c = selectVoice s.voices ∧
      t.voices[c]? = some { note := note, vel := vel, cur := some 0, rel := none, fade := none, phase := none,
                            lpfLast := 0, seed := seedInitOf s.par c } ∧
      (∀ j v, j ≠ c → s.voices[j]? = some v →
        t.voices[j]? = some (if v.cur.isSome ∧ v.fade = none ∧ v.note = note then { v with fade := v.cur } else v))

/-- R189, R39 (6), R33: while a slot is free, an accepted NOTE_ON takes the lowest free slot and leaves every
sounding slot sounding at its CUR. -/
def Obligations.NoteOnFillsInOrder : Prop :=
  ∀ (note : Note) (opd : Word) (s t : State) (m : Nat), (velocityOf opd : Option ℚ).isSome = true →
    (∀ j v, s.voices[j]? = some v → (v.cur = none ↔ m ≤ j)) → m < s.voices.length →
    exec (.noteOn note opd) s = .next t →
    (∀ j v, t.voices[j]? = some v → (v.cur = none ↔ m + 1 ≤ j)) ∧
    (∀ j, j < m → (t.voices[j]?).map (·.cur) = (s.voices[j]?).map (·.cur))

/-- R189, second half, R234: a NOTE_ON of a note that slot `a` is playing marks that voice fading, and it
goes on sounding, whenever another slot is free or older. -/
def Obligations.RetriggerMarksFading : Prop :=
  ∀ (note : Note) (opd : Word) (s t : State) (a b cur : Nat) (v w : Voice ℚ), (velocityOf opd : Option ℚ).isSome = true →
    s.voices[a]? = some v → v.cur = some cur → v.fade = none → v.note = note →
    s.voices[b]? = some w → (w.cur = none ∨ ∃ c, w.cur = some c ∧ cur < c) →
    exec (.noteOn note opd) s = .next t →
    t.voices[a]? = some { v with fade := some cur }

/-- R190 to R192: NOTE_OFF completes; with no active voice of the note nothing changes; an active voice not
yet released is released at its CUR; one already released only sets REPEAT_OFF. That the recorded count stays is the
model's choice (log 18). -/
def Obligations.NoteOffResult : Prop :=
  ∀ (note : Note) (s : State), s.configOk = true →
    ((∀ v ∈ s.voices, ¬ (v.cur.isSome ∧ v.fade = none ∧ v.note = note)) → exec (.noteOff note) s = .next s) ∧
    (∀ a v, s.voices[a]? = some v → v.cur.isSome → v.fade = none → v.note = note →
      (∀ j w, j < a → s.voices[j]? = some w → ¬ (w.cur.isSome ∧ w.fade = none ∧ w.note = note)) →
      (v.rel = none → exec (.noteOff note) s = .next { s with voices := s.voices.set a { v with rel := v.cur } }) ∧
      (v.rel.isSome → exec (.noteOff note) s = .next { s with status := s.status ||| 1#32 }))

/-- R191, R138: a second NOTE_OFF of the same note right after the first changes at most REPEAT_OFF, and sets
it exactly when a voice of the note is active. That the recorded count stays is the model's choice (log 18). -/
def Obligations.NoteOffTwice : Prop :=
  ∀ (note : Note) (s t : State), exec (.noteOff note) s = .next t →
    exec (.noteOff note) t =
      .next (if s.voices.any (fun v => v.cur.isSome && v.fade.isNone && decide (v.note = note))
        then { t with status := t.status ||| 1#32 } else t)

/-- R193: NOTE_OFF never changes a fading slot. -/
def Obligations.NoteOffSparesFading : Prop :=
  ∀ (note : Note) (s t : State) (j : Nat) (v : Voice ℚ), exec (.noteOff note) s = .next t →
    s.voices[j]? = some v → v.fade.isSome → t.voices[j]? = some v

/-! ## Frames -/

/-- What the three commands leave alone: NOTE_ON, NOTE_OFF and RENDER change neither the parameters, CFG,
TABLE, the latches, the port nor the unit latches, and keep the number of slots; NOTE_ON and NOTE_OFF leave
every entry of `OUT`, RENDER every entry at or beyond its count; RENDER leaves STATUS, and every field of a
slot but CUR, PHASE and LPF_LAST (R62, R170, R185, R190). Two clauses are the model's choice and no rule's: that CMD
and OPD keep their words when the command has completed (log 10), and that NOTE_ON and NOTE_OFF leave the recorded
count, so that the host's window on `OUT` stays open over them (log 18; R64 promises it only until the next command
starts). -/
def Obligations.CommandFrames : Prop :=
  ∀ (i : Instr) (s t : State), ((∃ n o, i = .noteOn n o) ∨ (∃ n, i = .noteOff n) ∨ ∃ n, i = .render n) →
    exec i s = .next t →
    (t.par = s.par ∧ t.cfg = s.cfg ∧ t.table = s.table ∧ t.cmd = s.cmd ∧ t.opd = s.opd ∧ t.port = s.port ∧
      t.seq = s.seq ∧ t.voices.length = s.voices.length) ∧
    ((∀ n, i ≠ .render n) → t.outCount = s.outCount ∧ ∀ j, t.out.read j = s.out.read j) ∧
    (∀ n, i = .render n → t.status = s.status ∧ (∀ j, n.toNat ≤ j → t.out.read j = s.out.read j) ∧
      ∀ (j : Nat) (v : Voice ℚ), s.voices[j]? = some v → ∃ w : Voice ℚ, t.voices[j]? = some w ∧
        w = { v with cur := w.cur, phase := w.phase, lpfLast := w.lpfLast })

/-- What the unit operations leave alone: they store to no memory and change no slot but for the PHASE and
LPF_LAST their rules name (R115, R146, R160; R102 to R105, R108, R110, R120, R136, R155: none). For OSC.ACC and
LPF.STEP on a free slot, and for CMD and OPD, this is the model's choice (log 17, log 10). -/
def Obligations.UnitFrames : Prop :=
  ∀ (i : Instr) (s t : State), (∀ n o, i ≠ .noteOn n o) → (∀ n, i ≠ .noteOff n) → (∀ n, i ≠ .render n) →
    exec i s = .next t →
    sameButVoicesSeq s t ∧ (∀ j, t.out.read j = s.out.read j) ∧ t.seq.phase = s.seq.phase ∧
    t.seq.waveIssue = s.seq.waveIssue ∧
    (∀ (j : Nat) (v : Voice ℚ), s.voices[j]? = some v → ∃ w : Voice ℚ, t.voices[j]? = some w ∧
      w = { v with phase := w.phase, lpfLast := w.lpfLast } ∧
      ((∃ f, i = .mixFrame f) ∨ (∃ f, i = .voiceSample j f) ∨ (∃ k P, i = .oscAcc j k P) ∨ w.phase = v.phase) ∧
      ((∃ f, i = .mixFrame f) ∨ (∃ f, i = .voiceSample j f) ∨ (∃ u f sr, i = .lpfStep j u f sr) ∨
        w.lpfLast = v.lpfLast))

/-- The model's choice (log 17) for what R67, R120, R125, R135, R151 and R156 give no meaning: where a unit operation
stops, and under which name. -/
def Obligations.UnitsStopOutsideTheirDomain : Prop :=
  ∀ s : State, s.configOk = true →
    (∀ k P o, P ≤ 0 ∨ o < 0 → exec (.oscStateless k P o) s = .fault .outsideDomain) ∧
    (∀ slot k P, P ≤ 0 → exec (.oscAcc slot k P) s = .fault .outsideDomain) ∧
    (∀ slot u f sr, f ≤ 0 ∨ sr ≤ 0 → exec (.lpfStep slot u f sr) s = .fault .outsideDomain) ∧
    (s.seq.phase < 0 ∨ 1 ≤ s.seq.phase → ∀ k, exec (kindInstr k) s = .fault .outsideDomain) ∧
    (∀ A D S R o rel, A < 0 ∨ D < 0 ∨ S < 0 ∨ 1 < S ∨ R < 0 ∨ o < 0 ∨ (∃ r, rel = some r ∧ r < 0) →
      exec (.envSample A D S R o rel) s = .fault .outsideDomain) ∧
    (∀ seed k, 2 ^ s.par.seedW ≤ seed ∨ 2 ^ s.par.frameW ≤ k → exec (.oscNoise seed k) s = .fault .outsideDomain) ∧
    (s.table = [] ∨ (∃ x ∈ s.table, x < -1 ∨ 1 < x) →
      exec .oscTable s = .fault .outsideDomain ∧
      (∀ P o, exec (.oscStateless .table P o) s = .fault .outsideDomain) ∧
      ∀ slot P, exec (.oscAcc slot .table P) s = .fault .outsideDomain) ∧
    (∀ frame, Config.bufMax ≤ frame → exec (.mixFrame frame) s = .fault .outsideDomain ∧
      ∀ slot, exec (.plan slot frame) s = .fault .outsideDomain ∧
        exec (.voiceSample slot frame) s = .fault .outsideDomain) ∧
    (∀ slot, s.voices.length ≤ slot →
      (∀ frame, frame < Config.bufMax →
        exec (.plan slot frame) s = .fault .noSuchSlot ∧ exec (.voiceSample slot frame) s = .fault .noSuchSlot) ∧
      (∀ k P, 0 < P → (k = .table → tableOk s.table = true) → exec (.oscAcc slot k P) s = .fault .noSuchSlot) ∧
      ∀ u f sr, 0 < f → 0 < sr → exec (.lpfStep slot u f sr) s = .fault .noSuchSlot) ∧
    (∀ slot frame v, s.voices[slot]? = some v → v.cur = none → frame < Config.bufMax →
      exec (.plan slot frame) s = .fault .slotNotSounding ∧
      exec (.voiceSample slot frame) s = .fault .slotNotSounding)

/-! ## State, reset, the step -/

/-- R55, R220 to R222: what reset leaves, for every parameters, configuration port and table; the counts of
slots and seeds agree; the fifteen fields on the port are latched in register-number order 0 to 14 (R40). What the
spec leaves unspecified (NOTE, VEL, CMD, OPD) is not stated. -/
def Obligations.ResetState : Prop :=
  (∀ (cfg : Cfg ℚ) (s t : State), t = hostReset cfg s →
    t.cfg = cfg ∧ t.par = s.par ∧ t.table = s.table ∧ t.status = 0#32 ∧ t.voices.length = s.par.seedInit.length ∧
    (∀ slot v, t.voices[slot]? = some v → v.cur = none ∧ v.rel = none ∧ v.fade = none ∧ v.phase = none ∧
      v.lpfLast = 0 ∧ v.seed = seedInitOf s.par slot) ∧
    (∀ i, hostReadOut i t = .fault .outNotReadable)) ∧
  ∀ (c0 c2 c3 c4 c5 c6 c7 c8 c9 c10 c11 c12 c13 c14 : ℚ) (c1 : Word) (s : State),
    hostResetFrom [.num c0, .word c1, .num c2, .num c3, .num c4, .num c5, .num c6, .num c7, .num c8, .num c9,
      .num c10, .num c11, .num c12, .num c13, .num c14] s =
      some (hostReset
        { sampleRate := c0, oscKind := c1, oscGain := c2, noiseGain := c3, lpfBaseFreq := c4
          ampEnv := { attackMs := c5, decayMs := c6, sustain := c7, releaseMs := c8 }
          modEnv := { attackMs := c9, decayMs := c10, sustain := c11, releaseMs := c12 }
          oscModDepth := c13, lpfModDepth := c14 } s)

/-- The reset state meets the invariant, whatever the parameters, configuration and table. -/
def Obligations.ResetMeetsInvariant : Prop :=
  ∀ (par : Params ℚ) (cfg : Cfg ℚ) (table : List ℚ), BlockInv (State.resetWith par cfg table)

/-- R39: every step keeps the invariant of the block, with the machine's own numbers and in every exact number
system (R8). -/
def Obligations.StepKeepsInvariant : Prop :=
  (∀ s t : State, BlockInv s → step s = .next t → BlockInv t) ∧
  ∀ (α : Type) [Field α] [LinearOrder α] [IsStrictOrderedRing α] [FloorRing α] (F : Functions α) (s t : State α),
    BlockInv s → stepOn (exactNum F) s = .next t → BlockInv t

/-- R39 (5), R33: a sounding slot stays sounding, whatever step or instruction runs. -/
def Obligations.SoundingStaysSounding : Prop :=
  ∀ (s t : State) (slot : Nat) (v : Voice ℚ), ((∃ i, exec i s = .next t) ∨ step s = .next t) →
    s.voices[slot]? = some v → v.cur.isSome → ∃ w, t.voices[slot]? = some w ∧ w.cur.isSome

/-- R40, R61, R233: no step writes the configuration, the wavetable or a parameter, or changes the number of
slots. -/
def Obligations.ConfigurationIsReadOnly : Prop :=
  ∀ s t : State, step s = .next t →
    t.cfg = s.cfg ∧ t.table = s.table ∧ t.par = s.par ∧ t.voices.length = s.voices.length

/-- R25: how each command advances the counters. -/
def Obligations.CounterAdvance : Prop :=
  ∀ (s t : State) (slot : Nat) (v : Voice ℚ), s.voices[slot]? = some v →
    (∀ note opd, exec (.noteOn note opd) s = .next t → (velocityOf opd : Option ℚ).isSome = true →
      ∃ w, t.voices[slot]? = some w ∧ w.cur = if slot = selectVoice s.voices then some 0 else v.cur) ∧
    (∀ note, exec (.noteOff note) s = .next t → ∃ w, t.voices[slot]? = some w ∧ w.cur = v.cur) ∧
    (∀ n, exec (.render n) s = .next t → ∃ w, t.voices[slot]? = some w ∧
      w.cur = v.cur.map fun c => min (c + n.toNat) (2 ^ s.par.frameW - 1)) ∧
    (∀ note opd, exec (.noteOn note opd) s = .next t → (velocityOf opd : Option ℚ) = none → t.voices = s.voices) ∧
    (illegalCommand s = .next t → t.voices = s.voices)

/-- R45, R207: the flags are sticky; only bits 0 to 2 are ever set. -/
def Obligations.StatusSticky : Prop :=
  ∀ s t : State, step s = .next t →
    s.status &&& t.status = s.status ∧ t.status &&& ~~~ 7#32 = s.status &&& ~~~ 7#32

/-- R46, R207, R20: no instruction's behaviour depends on STATUS, CMD or OPD: run with any contents there it does
what it does with all three 0, and sets the same flags. -/
def Obligations.StatusAndLatchesUnread : Prop :=
  ∀ (i : Instr) (s : State) (st c o : Word),
    exec i (relatch st c o s) = mapNext (fun t => relatch (st ||| t.status) c o t) (exec i (relatch 0#32 0#32 0#32 s))

/-- R32, R165: no instruction's behaviour depends on a VEL. -/
def Obligations.VelocityUnread : Prop :=
  ∀ (i : Instr) (s : State), mapNext eraseVel (exec i (eraseVel s)) = mapNext eraseVel (exec i s)

/-- A step runs the decoded instruction, in the state with its words moved from the port into the latches
(R82, R88, R20); a waveform issue runs the waveform CFG.OSC_KIND names (R90, log 16). That OPD keeps its word over a one-word
command is the model's choice (log 10). -/
def Obligations.StepRunsDecoded : Prop :=
  ∀ s : State, s.configOk = true →
    (∀ w rest i, s.seq.waveIssue = false → s.port = w :: rest → commandLength w = 1 →
      decode s.port = .command i rest → step s = exec i { s with cmd := w, port := rest }) ∧
    (∀ w opd rest i, s.seq.waveIssue = false → s.port = w :: opd :: rest → commandLength w = 2 →
      decode s.port = .command i rest → step s = exec i { s with cmd := w, opd := opd, port := rest }) ∧
    (∀ k, s.seq.waveIssue = true → decodeKind s.cfg.oscKind = some k →
      step s = exec (kindInstr k) (s.setWaveIssue false))

/-- R201 (with R205 and R88): a refused command changes nothing but the status bit of its reason; its words
leave the port; an illegal first word is reported before a bad velocity. What CMD and OPD hold afterwards, the words
taken and OPD as before over one word, is the model's choice (log 10, R20). -/
def Obligations.RefusalIsPrecise : Prop :=
  ∀ (s : State) (w : Word) (ws : List Word), s.configOk = true → s.seq.waveIssue = false → s.port = w :: ws →
    (w.toNat < 0x01000000 ∨ 0x02000080 ≤ w.toNat ∧ w.toNat < 0x03000000 ∨ 0x04000000 ≤ w.toNat →
      step s = .next { s with cmd := w, port := ws, status := s.status ||| 2#32 }) ∧
    (∀ opd rest, ws = opd :: rest →
      (0x01000080 ≤ w.toNat ∧ w.toNat < 0x02000000 →
        step s = .next { s with cmd := w, opd := opd, port := rest, status := s.status ||| 2#32 }) ∧
      (0x01000000 ≤ w.toNat ∧ w.toNat < 0x01000080 ∧ (velocityOf opd : Option ℚ) = none →
        step s = .next { s with cmd := w, opd := opd, port := rest, status := s.status ||| 4#32 }))

/-- R210, R224: with no complete command on the port the block waits and holds all of its state. That a first word
of opcode 0x01 alone, its reserved bits set or not, is no complete command yet and stays on the port is the model's
choice (log 13). -/
def Obligations.WaitsForACommand : Prop :=
  ∀ s : State, s.configOk = true → s.seq.waveIssue = false →
    (decode s.port = .incomplete ↔
      s.port = [] ∨ ∃ w, 0x01000000 ≤ w.toNat ∧ w.toNat < 0x02000000 ∧ s.port = [w]) ∧
    (decode s.port = .incomplete → step s = .next s)

/-- The model's reading of R9 and U1 (log 15): a configuration that is not well formed is refused. That an empty table
is well formed under a kind other than TABLE is the model's choice (log 27). -/
def Obligations.IllFormedConfigRefused : Prop :=
  ∀ s : State, s.configOk = false →
    step s = .refused .illFormedConfig ∧ ∀ i, exec i s = .refused .illFormedConfig

/-- R64: after a RENDER of `n` frames the host reads the frames of that RENDER at `0 .. n-1`, and no entry
beyond. -/
def Obligations.HostReadsTheFrames : Prop :=
  ∀ (count : Count) (s t : State) (k : Kind), s.kind? = some k → exec (.render count) s = .next t →
    ∀ i, hostReadOut i t =
      if i < count.toNat then
        .next (toF32 (s.voices.map fun v => ((voiceRun (s.ctx freeNum k) count.toNat 0 v).1)[i]?.getD 0).sum)
      else .fault .outNotReadable
end

