-- ==== Sys2Proof/Laws/Numerics.lean ====
section
/-! SUPPORT. The named properties of the machine's own functions (log 2, 3, 4): the only facts a proof about `exec`
can have of them; and what an exact number system's `floor` is. -/

namespace Sys2Proof.Machine

section Exact
variable {α : Type} [Field α] [LinearOrder α] [FloorRing α] (F : Functions α)

@[simp] theorem exactNum_floor (x : α) : (exactNum F).floor x = ⌊x⌋ := rfl
@[simp] theorem exactNum_toF32 (x : α) : (exactNum F).toF32 x = toF32 x := rfl
@[simp] theorem exactNum_ofRat (q : Num) : (exactNum F).ofRat q = (q : α) := rfl
@[simp] theorem exactNum_toFunctions : (exactNum F).toFunctions = F := rfl

/-- `frac` of an exact number system is the fractional part. -/
@[simp] theorem frac_exactNum (x : α) : frac (exactNum F) x = Int.fract x := rfl

/-- `floor(a/P)` whole periods below `a`. -/
theorem realMod_exactNum (a P : α) : realMod (exactNum F) a P = a - P * (⌊a / P⌋ : α) := rfl

/-- The phase stays in `[0,1)` (R36, R115). -/
theorem phaseStep_mem [IsStrictOrderedRing α] (x : α) : 0 ≤ frac (exactNum F) x ∧ frac (exactNum F) x < 1 :=
  ⟨Int.fract_nonneg x, Int.fract_lt_one x⟩

end Exact

/-! ## The machine's own functions -/

theorem freePi_mem : 3 < freeNum.pi ∧ freeNum.pi < 22 / 7 := freeFns.pi_mem

theorem freePi_pos : 0 < freeNum.pi := lt_trans (by norm_num) freePi_mem.1

/-- The sine of `2*pi*p` depends on the phase `p` alone. -/
theorem freeSin_turn (p : Num) : freeNum.sin (2 * freeNum.pi * p) = freeFns.sinTurn p := by
  have hp : (2 : Num) * freeNum.pi ≠ 0 := mul_ne_zero two_ne_zero freePi_pos.ne'
  show freeFns.sinTurn (2 * freeNum.pi * p / (2 * freeNum.pi)) = _
  rw [mul_div_cancel_left₀ p hp]

theorem freeSin_mem (x : Num) : -1 ≤ freeNum.sin x ∧ freeNum.sin x ≤ 1 := freeFns.sin_mem _

/-- A whole number of turns more is the same sine. -/
theorem sinTurn_add_int (p : Num) (n : Int) : freeFns.sinTurn (p + n) = freeFns.sinTurn p := by
  induction n with
  | zero => simp
  | succ n ih => rw [← ih, ← freeFns.sin_period (p + (n : Int))]; push_cast; congr 1; ring
  | pred n ih => rw [← ih, ← freeFns.sin_period (p + (-(n : Int) - 1 : Int))]; push_cast; congr 1; ring

theorem freeExp_of_neg {x : Num} (h : x < 0) : 0 < freeNum.exp x ∧ freeNum.exp x < 1 :=
  ⟨freeFns.exp_pos x, (freeFns.exp_mono x 0 h).trans_eq freeFns.exp_zero⟩

theorem freeExp_lt {x y : Num} (h : x < y) : freeNum.exp x < freeNum.exp y := freeFns.exp_mono x y h

/-- One octave up is a factor of two. -/
theorem freeExp2_add_one (x : Num) : freeNum.exp2 (x + 1) = 2 * freeNum.exp2 x := freeFns.exp2_add_one x

theorem freeExp2_lt {x y : Num} (h : x < y) : freeNum.exp2 x < freeNum.exp2 y := freeFns.exp2_mono x y h

/-- `2^n` is exact at an integer. -/
theorem freeExp2_intCast (n : Int) : freeNum.exp2 (n : Num) = (2 : Num) ^ n := by
  induction n with
  | zero => rw [Int.cast_zero, zpow_zero]; exact freeFns.exp2_zero
  | succ n ih =>
    rw [Int.cast_add, Int.cast_one, freeExp2_add_one, ih, zpow_add_one₀ (by norm_num), mul_comm]
  | pred n ih =>
    have h := freeExp2_add_one ((-(n : Int) - 1 : Int) : Num)
    have e : ((-(n : Int) - 1 : Int) : Num) + 1 = ((-(n : Int) : Int) : Num) := by push_cast; ring
    rw [e, ih] at h
    rw [zpow_sub_one₀ (by norm_num), h]
    ring

theorem freeExp2_pos (x : Num) : 0 < freeNum.exp2 x := by
  have h1 : freeNum.exp2 ((⌊x⌋ - 1 : Int) : Num) < freeNum.exp2 x := by
    apply freeExp2_lt
    push_cast
    linarith [Int.floor_le x]
  rw [freeExp2_intCast] at h1
  exact lt_trans (by positivity) h1

theorem freeNoise_mem (seed k : Nat) : -1 ≤ freeNum.noiseHash seed k ∧ freeNum.noiseHash seed k ≤ 1 :=
  freeFns.noise_mem seed k

theorem freeFade_mem (d : Num) : 0 ≤ freeNum.fadeGain d ∧ freeNum.fadeGain d ≤ 1 := freeFns.fade_mem d

/-! ## Powers of two -/

theorem pow2_pos {α : Type} [Field α] [LinearOrder α] [IsStrictOrderedRing α] (n : Int) : (0 : α) < pow2 n := by
  cases n <;> simp only [pow2] <;> positivity

/-- `pow2` is the integer power of two. -/
theorem pow2_eq_zpow {α : Type} [Field α] (n : Int) : (pow2 n : α) = (2 : α) ^ n := by
  cases n with
  | ofNat n => simp [pow2]
  | negSucc n => simp [pow2, zpow_negSucc]

end Sys2Proof.Machine
end

