-- ==== Sys2Proof/Laws/State.lean ====
section
/-! SUPPORT. One lemma per field per update of State and of Voice, true by rfl. -/

set_option linter.unusedSectionVars false

namespace Sys2Proof.Machine

section Fields
variable {α : Type}

/-! `setFlag` -/

@[simp] theorem setFlag_par (c : Condition) (s : State α) : (setFlag c s).par = s.par := rfl
@[simp] theorem setFlag_cfg (c : Condition) (s : State α) : (setFlag c s).cfg = s.cfg := rfl
@[simp] theorem setFlag_table (c : Condition) (s : State α) : (setFlag c s).table = s.table := rfl
@[simp] theorem setFlag_voices (c : Condition) (s : State α) : (setFlag c s).voices = s.voices := rfl
@[simp] theorem setFlag_status (c : Condition) (s : State α) : (setFlag c s).status = s.status ||| c.mask := rfl
@[simp] theorem setFlag_cmd (c : Condition) (s : State α) : (setFlag c s).cmd = s.cmd := rfl
@[simp] theorem setFlag_opd (c : Condition) (s : State α) : (setFlag c s).opd = s.opd := rfl
@[simp] theorem setFlag_port (c : Condition) (s : State α) : (setFlag c s).port = s.port := rfl
@[simp] theorem setFlag_out (c : Condition) (s : State α) : (setFlag c s).out = s.out := rfl
@[simp] theorem setFlag_outCount (c : Condition) (s : State α) : (setFlag c s).outCount = s.outCount := rfl
@[simp] theorem setFlag_seq (c : Condition) (s : State α) : (setFlag c s).seq = s.seq := rfl

/-! `refuseCommand` -/

@[simp] theorem refuseCommand_par (c : Condition) (s : State α) : (refuseCommand c s).par = s.par := rfl
@[simp] theorem refuseCommand_cfg (c : Condition) (s : State α) : (refuseCommand c s).cfg = s.cfg := rfl
@[simp] theorem refuseCommand_table (c : Condition) (s : State α) : (refuseCommand c s).table = s.table := rfl
@[simp] theorem refuseCommand_voices (c : Condition) (s : State α) : (refuseCommand c s).voices = s.voices := rfl
@[simp] theorem refuseCommand_status (c : Condition) (s : State α) : (refuseCommand c s).status = s.status ||| c.mask := rfl
@[simp] theorem refuseCommand_cmd (c : Condition) (s : State α) : (refuseCommand c s).cmd = s.cmd := rfl
@[simp] theorem refuseCommand_opd (c : Condition) (s : State α) : (refuseCommand c s).opd = s.opd := rfl
@[simp] theorem refuseCommand_port (c : Condition) (s : State α) : (refuseCommand c s).port = s.port := rfl
@[simp] theorem refuseCommand_out (c : Condition) (s : State α) : (refuseCommand c s).out = s.out := rfl
@[simp] theorem refuseCommand_outCount (c : Condition) (s : State α) : (refuseCommand c s).outCount = s.outCount := rfl
@[simp] theorem refuseCommand_seq (c : Condition) (s : State α) : (refuseCommand c s).seq = s.seq := rfl

/-! `setVoice` -/

@[simp] theorem setVoice_par (slot : Nat) (v : Voice α) (s : State α) : (s.setVoice slot v).par = s.par := rfl
@[simp] theorem setVoice_cfg (slot : Nat) (v : Voice α) (s : State α) : (s.setVoice slot v).cfg = s.cfg := rfl
@[simp] theorem setVoice_table (slot : Nat) (v : Voice α) (s : State α) : (s.setVoice slot v).table = s.table := rfl
@[simp] theorem setVoice_voices (slot : Nat) (v : Voice α) (s : State α) : (s.setVoice slot v).voices = s.voices.set slot v := rfl
@[simp] theorem setVoice_status (slot : Nat) (v : Voice α) (s : State α) : (s.setVoice slot v).status = s.status := rfl
@[simp] theorem setVoice_cmd (slot : Nat) (v : Voice α) (s : State α) : (s.setVoice slot v).cmd = s.cmd := rfl
@[simp] theorem setVoice_opd (slot : Nat) (v : Voice α) (s : State α) : (s.setVoice slot v).opd = s.opd := rfl
@[simp] theorem setVoice_port (slot : Nat) (v : Voice α) (s : State α) : (s.setVoice slot v).port = s.port := rfl
@[simp] theorem setVoice_out (slot : Nat) (v : Voice α) (s : State α) : (s.setVoice slot v).out = s.out := rfl
@[simp] theorem setVoice_outCount (slot : Nat) (v : Voice α) (s : State α) : (s.setVoice slot v).outCount = s.outCount := rfl
@[simp] theorem setVoice_seq (slot : Nat) (v : Voice α) (s : State α) : (s.setVoice slot v).seq = s.seq := rfl

/-! `setResult` -/

@[simp] theorem setResult_par (x : α) (s : State α) : (s.setResult x).par = s.par := rfl
@[simp] theorem setResult_cfg (x : α) (s : State α) : (s.setResult x).cfg = s.cfg := rfl
@[simp] theorem setResult_table (x : α) (s : State α) : (s.setResult x).table = s.table := rfl
@[simp] theorem setResult_voices (x : α) (s : State α) : (s.setResult x).voices = s.voices := rfl
@[simp] theorem setResult_status (x : α) (s : State α) : (s.setResult x).status = s.status := rfl
@[simp] theorem setResult_cmd (x : α) (s : State α) : (s.setResult x).cmd = s.cmd := rfl
@[simp] theorem setResult_opd (x : α) (s : State α) : (s.setResult x).opd = s.opd := rfl
@[simp] theorem setResult_port (x : α) (s : State α) : (s.setResult x).port = s.port := rfl
@[simp] theorem setResult_out (x : α) (s : State α) : (s.setResult x).out = s.out := rfl
@[simp] theorem setResult_outCount (x : α) (s : State α) : (s.setResult x).outCount = s.outCount := rfl
@[simp] theorem setResult_seq (x : α) (s : State α) : (s.setResult x).seq = { s.seq with result := x } := rfl

/-! `setPlan` -/

@[simp] theorem setPlan_par (p : Plan α) (s : State α) : (s.setPlan p).par = s.par := rfl
@[simp] theorem setPlan_cfg (p : Plan α) (s : State α) : (s.setPlan p).cfg = s.cfg := rfl
@[simp] theorem setPlan_table (p : Plan α) (s : State α) : (s.setPlan p).table = s.table := rfl
@[simp] theorem setPlan_voices (p : Plan α) (s : State α) : (s.setPlan p).voices = s.voices := rfl
@[simp] theorem setPlan_status (p : Plan α) (s : State α) : (s.setPlan p).status = s.status := rfl
@[simp] theorem setPlan_cmd (p : Plan α) (s : State α) : (s.setPlan p).cmd = s.cmd := rfl
@[simp] theorem setPlan_opd (p : Plan α) (s : State α) : (s.setPlan p).opd = s.opd := rfl
@[simp] theorem setPlan_port (p : Plan α) (s : State α) : (s.setPlan p).port = s.port := rfl
@[simp] theorem setPlan_out (p : Plan α) (s : State α) : (s.setPlan p).out = s.out := rfl
@[simp] theorem setPlan_outCount (p : Plan α) (s : State α) : (s.setPlan p).outCount = s.outCount := rfl
@[simp] theorem setPlan_seq (p : Plan α) (s : State α) : (s.setPlan p).seq = { s.seq with plan := p } := rfl

/-! `setWaveIssue` -/

@[simp] theorem setWaveIssue_par (b : Bool) (s : State α) : (s.setWaveIssue b).par = s.par := rfl
@[simp] theorem setWaveIssue_cfg (b : Bool) (s : State α) : (s.setWaveIssue b).cfg = s.cfg := rfl
@[simp] theorem setWaveIssue_table (b : Bool) (s : State α) : (s.setWaveIssue b).table = s.table := rfl
@[simp] theorem setWaveIssue_voices (b : Bool) (s : State α) : (s.setWaveIssue b).voices = s.voices := rfl
@[simp] theorem setWaveIssue_status (b : Bool) (s : State α) : (s.setWaveIssue b).status = s.status := rfl
@[simp] theorem setWaveIssue_cmd (b : Bool) (s : State α) : (s.setWaveIssue b).cmd = s.cmd := rfl
@[simp] theorem setWaveIssue_opd (b : Bool) (s : State α) : (s.setWaveIssue b).opd = s.opd := rfl
@[simp] theorem setWaveIssue_port (b : Bool) (s : State α) : (s.setWaveIssue b).port = s.port := rfl
@[simp] theorem setWaveIssue_out (b : Bool) (s : State α) : (s.setWaveIssue b).out = s.out := rfl
@[simp] theorem setWaveIssue_outCount (b : Bool) (s : State α) : (s.setWaveIssue b).outCount = s.outCount := rfl
@[simp] theorem setWaveIssue_seq (b : Bool) (s : State α) : (s.setWaveIssue b).seq = { s.seq with waveIssue := b } := rfl

/-! `hostSend` -/

@[simp] theorem hostSend_par (ws : List Word) (s : State α) : (hostSend ws s).par = s.par := rfl
@[simp] theorem hostSend_cfg (ws : List Word) (s : State α) : (hostSend ws s).cfg = s.cfg := rfl
@[simp] theorem hostSend_table (ws : List Word) (s : State α) : (hostSend ws s).table = s.table := rfl
@[simp] theorem hostSend_voices (ws : List Word) (s : State α) : (hostSend ws s).voices = s.voices := rfl
@[simp] theorem hostSend_status (ws : List Word) (s : State α) : (hostSend ws s).status = s.status := rfl
@[simp] theorem hostSend_cmd (ws : List Word) (s : State α) : (hostSend ws s).cmd = s.cmd := rfl
@[simp] theorem hostSend_opd (ws : List Word) (s : State α) : (hostSend ws s).opd = s.opd := rfl
@[simp] theorem hostSend_port (ws : List Word) (s : State α) : (hostSend ws s).port = s.port ++ ws := rfl
@[simp] theorem hostSend_out (ws : List Word) (s : State α) : (hostSend ws s).out = s.out := rfl
@[simp] theorem hostSend_outCount (ws : List Word) (s : State α) : (hostSend ws s).outCount = s.outCount := rfl
@[simp] theorem hostSend_seq (ws : List Word) (s : State α) : (hostSend ws s).seq = s.seq := rfl

end Fields

section Generic
variable {α : Type} [Zero α] [One α] [Add α] [Sub α] [Neg α] [Mul α] [Div α] [NatCast α] [IntCast α]
  [LT α] [LE α] [DecidableLT α] [DecidableLE α] [Max α]

/-! `renderWith` -/

@[simp] theorem renderWith_par (N : Numerics α) (k : Kind) (n : Nat) (s : State α) : (renderWith N k n s).par = s.par := rfl
@[simp] theorem renderWith_cfg (N : Numerics α) (k : Kind) (n : Nat) (s : State α) : (renderWith N k n s).cfg = s.cfg := rfl
@[simp] theorem renderWith_table (N : Numerics α) (k : Kind) (n : Nat) (s : State α) : (renderWith N k n s).table = s.table := rfl
@[simp] theorem renderWith_voices (N : Numerics α) (k : Kind) (n : Nat) (s : State α) : (renderWith N k n s).voices = (renderLoop (s.ctx N k) n 0 s.voices s.out).1.map (advance s.par n) := rfl
@[simp] theorem renderWith_status (N : Numerics α) (k : Kind) (n : Nat) (s : State α) : (renderWith N k n s).status = s.status := rfl
@[simp] theorem renderWith_cmd (N : Numerics α) (k : Kind) (n : Nat) (s : State α) : (renderWith N k n s).cmd = s.cmd := rfl
@[simp] theorem renderWith_opd (N : Numerics α) (k : Kind) (n : Nat) (s : State α) : (renderWith N k n s).opd = s.opd := rfl
@[simp] theorem renderWith_port (N : Numerics α) (k : Kind) (n : Nat) (s : State α) : (renderWith N k n s).port = s.port := rfl
@[simp] theorem renderWith_out (N : Numerics α) (k : Kind) (n : Nat) (s : State α) : (renderWith N k n s).out = (renderLoop (s.ctx N k) n 0 s.voices s.out).2 := rfl
@[simp] theorem renderWith_outCount (N : Numerics α) (k : Kind) (n : Nat) (s : State α) : (renderWith N k n s).outCount = n := rfl
@[simp] theorem renderWith_seq (N : Numerics α) (k : Kind) (n : Nat) (s : State α) : (renderWith N k n s).seq = s.seq := rfl

/-! `latchWords`: only the two latches and the port change -/

@[simp] theorem latchWords_par (rest : List Word) (s : State α) : (latchWords rest s).par = s.par := by
  unfold latchWords; split <;> rfl
@[simp] theorem latchWords_cfg (rest : List Word) (s : State α) : (latchWords rest s).cfg = s.cfg := by
  unfold latchWords; split <;> rfl
@[simp] theorem latchWords_table (rest : List Word) (s : State α) : (latchWords rest s).table = s.table := by
  unfold latchWords; split <;> rfl
@[simp] theorem latchWords_voices (rest : List Word) (s : State α) : (latchWords rest s).voices = s.voices := by
  unfold latchWords; split <;> rfl
@[simp] theorem latchWords_status (rest : List Word) (s : State α) : (latchWords rest s).status = s.status := by
  unfold latchWords; split <;> rfl
@[simp] theorem latchWords_out (rest : List Word) (s : State α) : (latchWords rest s).out = s.out := by
  unfold latchWords; split <;> rfl
@[simp] theorem latchWords_outCount (rest : List Word) (s : State α) : (latchWords rest s).outCount = s.outCount := by
  unfold latchWords; split <;> rfl
@[simp] theorem latchWords_seq (rest : List Word) (s : State α) : (latchWords rest s).seq = s.seq := by
  unfold latchWords; split <;> rfl

/-! `State.resetWith` -/

@[simp] theorem resetWith_par (par : Params α) (cfg : Cfg α) (table : List α) : (State.resetWith par cfg table).par = par := rfl
@[simp] theorem resetWith_cfg (par : Params α) (cfg : Cfg α) (table : List α) : (State.resetWith par cfg table).cfg = cfg := rfl
@[simp] theorem resetWith_table (par : Params α) (cfg : Cfg α) (table : List α) : (State.resetWith par cfg table).table = table := rfl
@[simp] theorem resetWith_voices (par : Params α) (cfg : Cfg α) (table : List α) : (State.resetWith par cfg table).voices = par.seedInit.map Voice.reset := rfl
@[simp] theorem resetWith_status (par : Params α) (cfg : Cfg α) (table : List α) : (State.resetWith par cfg table).status = 0#32 := rfl
@[simp] theorem resetWith_cmd (par : Params α) (cfg : Cfg α) (table : List α) : (State.resetWith par cfg table).cmd = 0#32 := rfl
@[simp] theorem resetWith_opd (par : Params α) (cfg : Cfg α) (table : List α) : (State.resetWith par cfg table).opd = 0#32 := rfl
@[simp] theorem resetWith_port (par : Params α) (cfg : Cfg α) (table : List α) : (State.resetWith par cfg table).port = [] := rfl
@[simp] theorem resetWith_out (par : Params α) (cfg : Cfg α) (table : List α) : (State.resetWith par cfg table).out = [] := rfl
@[simp] theorem resetWith_outCount (par : Params α) (cfg : Cfg α) (table : List α) : (State.resetWith par cfg table).outCount = 0 := rfl
@[simp] theorem resetWith_seq (par : Params α) (cfg : Cfg α) (table : List α) : (State.resetWith par cfg table).seq = Seq.reset := rfl

/-! Voice updates -/

@[simp] theorem oscAcc_note (N : Numerics α) (p0 : α) (t : List α) (k : Kind) (P : α) (v : Voice α) : (oscAcc N p0 t k P v).2.note = v.note := rfl
@[simp] theorem oscAcc_vel (N : Numerics α) (p0 : α) (t : List α) (k : Kind) (P : α) (v : Voice α) : (oscAcc N p0 t k P v).2.vel = v.vel := rfl
@[simp] theorem oscAcc_cur (N : Numerics α) (p0 : α) (t : List α) (k : Kind) (P : α) (v : Voice α) : (oscAcc N p0 t k P v).2.cur = v.cur := rfl
@[simp] theorem oscAcc_rel (N : Numerics α) (p0 : α) (t : List α) (k : Kind) (P : α) (v : Voice α) : (oscAcc N p0 t k P v).2.rel = v.rel := rfl
@[simp] theorem oscAcc_fade (N : Numerics α) (p0 : α) (t : List α) (k : Kind) (P : α) (v : Voice α) : (oscAcc N p0 t k P v).2.fade = v.fade := rfl
@[simp] theorem oscAcc_phase (N : Numerics α) (p0 : α) (t : List α) (k : Kind) (P : α) (v : Voice α) : (oscAcc N p0 t k P v).2.phase = some (phaseStep N (v.phaseOr p0) P) := rfl
@[simp] theorem oscAcc_lpfLast (N : Numerics α) (p0 : α) (t : List α) (k : Kind) (P : α) (v : Voice α) : (oscAcc N p0 t k P v).2.lpfLast = v.lpfLast := rfl
@[simp] theorem oscAcc_seed (N : Numerics α) (p0 : α) (t : List α) (k : Kind) (P : α) (v : Voice α) : (oscAcc N p0 t k P v).2.seed = v.seed := rfl
@[simp] theorem lpfStep_note (N : Numerics α) (u f sr : α) (v : Voice α) : (lpfStep N u f sr v).2.note = v.note := rfl
@[simp] theorem lpfStep_vel (N : Numerics α) (u f sr : α) (v : Voice α) : (lpfStep N u f sr v).2.vel = v.vel := rfl
@[simp] theorem lpfStep_cur (N : Numerics α) (u f sr : α) (v : Voice α) : (lpfStep N u f sr v).2.cur = v.cur := rfl
@[simp] theorem lpfStep_rel (N : Numerics α) (u f sr : α) (v : Voice α) : (lpfStep N u f sr v).2.rel = v.rel := rfl
@[simp] theorem lpfStep_fade (N : Numerics α) (u f sr : α) (v : Voice α) : (lpfStep N u f sr v).2.fade = v.fade := rfl
@[simp] theorem lpfStep_phase (N : Numerics α) (u f sr : α) (v : Voice α) : (lpfStep N u f sr v).2.phase = v.phase := rfl
@[simp] theorem lpfStep_lpfLast (N : Numerics α) (u f sr : α) (v : Voice α) : (lpfStep N u f sr v).2.lpfLast = (lpfStep N u f sr v).1 := rfl
@[simp] theorem lpfStep_seed (N : Numerics α) (u f sr : α) (v : Voice α) : (lpfStep N u f sr v).2.seed = v.seed := rfl
@[simp] theorem advance_note (par : Params α) (n : Nat) (v : Voice α) : (advance par n v).note = v.note := rfl
@[simp] theorem advance_vel (par : Params α) (n : Nat) (v : Voice α) : (advance par n v).vel = v.vel := rfl
@[simp] theorem advance_cur (par : Params α) (n : Nat) (v : Voice α) : (advance par n v).cur = v.cur.map fun c => satAdd par c n := rfl
@[simp] theorem advance_rel (par : Params α) (n : Nat) (v : Voice α) : (advance par n v).rel = v.rel := rfl
@[simp] theorem advance_fade (par : Params α) (n : Nat) (v : Voice α) : (advance par n v).fade = v.fade := rfl
@[simp] theorem advance_phase (par : Params α) (n : Nat) (v : Voice α) : (advance par n v).phase = v.phase := rfl
@[simp] theorem advance_lpfLast (par : Params α) (n : Nat) (v : Voice α) : (advance par n v).lpfLast = v.lpfLast := rfl
@[simp] theorem advance_seed (par : Params α) (n : Nat) (v : Voice α) : (advance par n v).seed = v.seed := rfl

@[simp] theorem markFading_note (note : Note) (v : Voice α) : (markFading note v).note = v.note := by
  unfold markFading; split <;> rfl
@[simp] theorem markFading_vel (note : Note) (v : Voice α) : (markFading note v).vel = v.vel := by
  unfold markFading; split <;> rfl
@[simp] theorem markFading_cur (note : Note) (v : Voice α) : (markFading note v).cur = v.cur := by
  unfold markFading; split <;> rfl
@[simp] theorem markFading_rel (note : Note) (v : Voice α) : (markFading note v).rel = v.rel := by
  unfold markFading; split <;> rfl
theorem markFading_fade (note : Note) (v : Voice α) :
    (markFading note v).fade = if v.activeOn note then v.cur else v.fade := by
  unfold markFading; split <;> rfl
@[simp] theorem markFading_phase (note : Note) (v : Voice α) : (markFading note v).phase = v.phase := by
  unfold markFading; split <;> rfl
@[simp] theorem markFading_lpfLast (note : Note) (v : Voice α) : (markFading note v).lpfLast = v.lpfLast := by
  unfold markFading; split <;> rfl
@[simp] theorem markFading_seed (note : Note) (v : Voice α) : (markFading note v).seed = v.seed := by
  unfold markFading; split <;> rfl
@[simp] theorem freshVoice_note (note : Note) (vel : α) (seed : Nat) : (freshVoice note vel seed).note = note := rfl
@[simp] theorem freshVoice_vel (note : Note) (vel : α) (seed : Nat) : (freshVoice note vel seed).vel = vel := rfl
@[simp] theorem freshVoice_cur (note : Note) (vel : α) (seed : Nat) : (freshVoice note vel seed).cur = some 0 := rfl
@[simp] theorem freshVoice_rel (note : Note) (vel : α) (seed : Nat) : (freshVoice note vel seed).rel = none := rfl
@[simp] theorem freshVoice_fade (note : Note) (vel : α) (seed : Nat) : (freshVoice note vel seed).fade = none := rfl
@[simp] theorem freshVoice_phase (note : Note) (vel : α) (seed : Nat) : (freshVoice note vel seed).phase = none := rfl
@[simp] theorem freshVoice_lpfLast (note : Note) (vel : α) (seed : Nat) : (freshVoice note vel seed).lpfLast = 0 := rfl
@[simp] theorem freshVoice_seed (note : Note) (vel : α) (seed : Nat) : (freshVoice note vel seed).seed = seed := rfl
@[simp] theorem voiceReset_note (seed : Nat) : (Voice.reset seed : Voice α).note = 0#7 := rfl
@[simp] theorem voiceReset_vel (seed : Nat) : (Voice.reset seed : Voice α).vel = 0 := rfl
@[simp] theorem voiceReset_cur (seed : Nat) : (Voice.reset seed : Voice α).cur = none := rfl
@[simp] theorem voiceReset_rel (seed : Nat) : (Voice.reset seed : Voice α).rel = none := rfl
@[simp] theorem voiceReset_fade (seed : Nat) : (Voice.reset seed : Voice α).fade = none := rfl
@[simp] theorem voiceReset_phase (seed : Nat) : (Voice.reset seed : Voice α).phase = none := rfl
@[simp] theorem voiceReset_lpfLast (seed : Nat) : (Voice.reset seed : Voice α).lpfLast = 0 := rfl
@[simp] theorem voiceReset_seed (seed : Nat) : (Voice.reset seed : Voice α).seed = seed := rfl

end Generic

end Sys2Proof.Machine
end

