-- ==== Sys2Proof/Laws/Ops.lean ====
section
/-! SUPPORT. What each shared operation can do, said once: the guards, the memory `OUT`, the words of a
byte bus. -/

set_option linter.unusedSectionVars false

namespace Sys2Proof.Machine

/-! ## Guards -/

section Guards
variable {α : Type} [Zero α] [One α] [Add α] [Sub α] [Neg α] [Mul α] [Div α] [NatCast α] [IntCast α]
  [LT α] [LE α] [DecidableLT α] [DecidableLE α] [Max α]

theorem kind?_eq_some {s : State α} {k : Kind} :
    s.kind? = some k ↔ s.configOk = true ∧ decodeKind s.cfg.oscKind = some k := by
  unfold State.kind?; split <;> simp_all

theorem kind?_isSome {s : State α} : s.kind?.isSome = s.configOk := by
  unfold State.kind?
  split
  · rename_i h
    have := h
    simp only [State.configOk, cfgOk, Bool.and_eq_true] at this
    simp [this.2.1.1.1.2, h]
  · rename_i h; simp [h]

/-- A well-formed configuration names a kind. -/
theorem kind?_of_configOk {s : State α} (h : s.configOk = true) : ∃ k, s.kind? = some k :=
  Option.isSome_iff_exists.mp (kind?_isSome.trans h)

theorem withConfig_of_kind {s : State α} {k : Kind} {f : Kind → Result α} (h : s.kind? = some k) :
    withConfig s f = f k := by simp [withConfig, h]

theorem withConfig_refused {s : State α} {f : Kind → Result α} (h : s.configOk = false) :
    withConfig s f = .refused .illFormedConfig := by
  have : s.kind? = none := by simpa [h] using (kind?_isSome (s := s))
  simp [withConfig, this]

/-- A guarded meaning answers a next state only through its body. -/
theorem withConfig_eq_next {s t : State α} {f : Kind → Result α} :
    withConfig s f = .next t ↔ ∃ k, s.kind? = some k ∧ f k = .next t := by
  unfold withConfig; split <;> simp_all

theorem inDomain_true (r : Result α) : inDomain true r = r := rfl

theorem inDomain_eq_next {ok : Bool} {r : Result α} {t : State α} :
    inDomain ok r = .next t ↔ ok = true ∧ r = .next t := by
  unfold inDomain; split <;> simp_all

theorem withSlot_eq_next {s t : State α} {slot : Nat} {f : Voice α → Result α} :
    withSlot s slot f = .next t ↔ ∃ v, s.voices[slot]? = some v ∧ f v = .next t := by
  unfold withSlot; split <;> simp_all

theorem withSlot_of_get {s : State α} {slot : Nat} {v : Voice α} {f : Voice α → Result α}
    (h : s.voices[slot]? = some v) : withSlot s slot f = f v := by simp [withSlot, h]

theorem withSounding_eq_next {s t : State α} {slot : Nat} {f : Voice α → Nat → Result α} :
    withSounding s slot f = .next t ↔
      ∃ v c, s.voices[slot]? = some v ∧ v.cur = some c ∧ f v c = .next t := by
  unfold withSounding
  rw [withSlot_eq_next]
  constructor
  · rintro ⟨v, hv, h⟩
    split at h
    · rename_i c hc; exact ⟨v, c, hv, hc, h⟩
    · cases h
  · rintro ⟨v, c, hv, hc, h⟩; exact ⟨v, hv, by simp [hc, h]⟩

theorem withSounding_of_get {s : State α} {slot c : Nat} {v : Voice α} {f : Voice α → Nat → Result α}
    (h : s.voices[slot]? = some v) (hc : v.cur = some c) : withSounding s slot f = f v c := by
  simp [withSounding, withSlot, h, hc]

theorem illegalCommand_eq_next {s t : State α} :
    illegalCommand s = .next t ↔ s.configOk = true ∧ t = refuseCommand .illegalCmd s := by
  unfold illegalCommand
  rw [withConfig_eq_next]
  constructor
  · rintro ⟨k, hk, h⟩; exact ⟨(kind?_eq_some.mp hk).1, by simpa using h.symm⟩
  · rintro ⟨hc, rfl⟩; obtain ⟨k, hk⟩ := kind?_of_configOk hc; exact ⟨k, hk, rfl⟩

end Guards

/-! ## OUT -/

namespace OutMem

/-- A read after a write. -/
theorem read_write (m : OutMem) (i j : Nat) (w : Word) :
    OutMem.read (m.write i w) j = if j = i then some w else OutMem.read m j := by
  induction m with
  | nil => simp only [OutMem.write, OutMem.read]
  | cons p m ih =>
    obtain ⟨k, x⟩ := p
    simp only [OutMem.write]
    split
    · simp only [OutMem.read]
    · split
      · rename_i h; subst h; simp only [OutMem.read]; split <;> rfl
      · rename_i h; simp only [OutMem.read, ih]
        by_cases h1 : j = k
        · subst h1; simp [Ne.symm h]
        · simp [h1]

theorem wfFrom_mono {lo lo' : Nat} {m : OutMem} (hl : lo' ≤ lo) (h : OutMem.wfFrom lo m = true) :
    OutMem.wfFrom lo' m = true := by
  cases m with
  | nil => rfl
  | cons p m =>
    obtain ⟨k, x⟩ := p
    simp only [OutMem.wfFrom, Bool.and_eq_true, decide_eq_true_eq] at h ⊢
    exact ⟨⟨le_trans hl h.1.1, h.1.2⟩, h.2⟩

theorem write_wfFrom {lo i : Nat} {m : OutMem} {w : Word} (hi : lo ≤ i) (hb : i < Config.bufMax)
    (h : OutMem.wfFrom lo m = true) : OutMem.wfFrom lo (OutMem.write m i w) = true := by
  induction m generalizing lo with
  | nil => simp [OutMem.write, OutMem.wfFrom, hi, hb]
  | cons p m ih =>
    obtain ⟨k, x⟩ := p
    simp only [OutMem.wfFrom, Bool.and_eq_true, decide_eq_true_eq] at h
    obtain ⟨⟨hk, hkb⟩, hm⟩ := h
    simp only [OutMem.write]
    split
    · rename_i hlt
      simp only [OutMem.wfFrom, Bool.and_eq_true, decide_eq_true_eq]
      exact ⟨⟨hi, hb⟩, ⟨by omega, hkb⟩, hm⟩
    · split
      · rename_i h1 h2; subst h2
        simp only [OutMem.wfFrom, Bool.and_eq_true, decide_eq_true_eq]
        exact ⟨⟨hi, hb⟩, hm⟩
      · simp only [OutMem.wfFrom, Bool.and_eq_true, decide_eq_true_eq]
        exact ⟨⟨hk, hkb⟩, ih (by omega) hm⟩

/-- The one memory operation keeps the canonical form. -/
theorem write_wf {i : Nat} {m : OutMem} {w : Word} (hb : i < Config.bufMax) (h : OutMem.wf m = true) :
    OutMem.wf (OutMem.write m i w) = true := write_wfFrom (Nat.zero_le i) hb h

theorem outWrite_wf {α : Type} (N : Numerics α) {i : Nat} {m : OutMem} (v : α) (hb : i < Config.bufMax) (h : OutMem.wf m = true) :
    OutMem.wf (outWrite N m i v) = true := write_wf hb h

theorem read_none_of_lt {lo i : Nat} {m : OutMem} (h : OutMem.wfFrom lo m = true) (hi : i < lo) :
    OutMem.read m i = none := by
  induction m generalizing lo with
  | nil => rfl
  | cons p m ih =>
    obtain ⟨k, x⟩ := p
    simp only [OutMem.wfFrom, Bool.and_eq_true, decide_eq_true_eq] at h
    have : i ≠ k := by omega
    simp only [OutMem.read, this, if_false]
    exact ih h.2 (by omega)

/-- Memories in canonical form that read alike are equal data. -/
theorem ext_of_read {lo : Nat} {m m' : OutMem} (h : OutMem.wfFrom lo m = true) (h' : OutMem.wfFrom lo m' = true)
    (hr : ∀ i, OutMem.read m i = OutMem.read m' i) : m = m' := by
  induction m generalizing lo m' with
  | nil =>
    cases m' with
    | nil => rfl
    | cons p m' => have := hr p.1; simp [OutMem.read] at this
  | cons p m ih =>
    obtain ⟨k, x⟩ := p
    cases m' with
    | nil => have := hr k; simp [OutMem.read] at this
    | cons p' m' =>
      obtain ⟨k', x'⟩ := p'
      simp only [OutMem.wfFrom, Bool.and_eq_true, decide_eq_true_eq] at h h'
      have hk : k = k' := by
        by_contra hne
        rcases Nat.lt_or_gt_of_ne hne with hlt | hlt
        · have := hr k
          simp only [OutMem.read, if_true, hne, if_false] at this
          rw [read_none_of_lt h'.2 (by omega)] at this
          cases this
        · have := hr k'
          simp only [OutMem.read, if_true, Ne.symm hne, if_false] at this
          rw [read_none_of_lt h.2 (by omega)] at this
          cases this
      subst hk
      have hx : x = x' := by have := hr k; simpa [OutMem.read] using this
      subst hx
      congr 1
      refine ih h.2 h'.2 fun i => ?_
      by_cases hi : i = k
      · subst hi; rw [read_none_of_lt h.2 (by omega), read_none_of_lt h'.2 (by omega)]
      · have := hr i; simpa [OutMem.read, hi] using this

end OutMem

/-- Cutting a word into bytes and putting it together again (R65). -/
theorem bytesWord_wordBytes (w : Word) : bytesWord (wordBytes w) = some w := by
  simp only [wordBytes, bytesWord, Option.some.injEq]
  ext i hi
  simp only [BitVec.getElem_append, BitVec.getElem_extractLsb']
  by_cases h0 : i < 8
  · simp [h0, BitVec.getLsbD_eq_getElem hi]
  · by_cases h1 : i < 16
    · have : i - 8 < 8 := by omega
      simp [h0, this, show 8 + (i - 8) = i by omega, BitVec.getLsbD_eq_getElem hi]
    · by_cases h2 : i < 24
      · have a : ¬ i - 8 < 8 := by omega
        have b : i - 8 - 8 < 8 := by omega
        simp [h0, a, b, show 16 + (i - 8 - 8) = i by omega, BitVec.getLsbD_eq_getElem hi]
      · have a : ¬ i - 8 < 8 := by omega
        have b : ¬ i - 8 - 8 < 8 := by omega
        simp [h0, a, b, show 24 + (i - 8 - 8 - 8) = i by omega, BitVec.getLsbD_eq_getElem hi]

end Sys2Proof.Machine
end

