-- ==== Sys2Proof/Laws/Render.lean ====
section
/-! SUPPORT. What a frame and a RENDER loop do to the slots and to `OUT`, said once. -/

namespace Sys2Proof.Machine

section Generic
variable {α : Type} [Field α] [LinearOrder α]

/-! ## The voice step: only PHASE and LPF_LAST change -/

@[simp] theorem voiceStep_note (c : Ctx α) (pl : Plan α) (v : Voice α) : (voiceStep c pl v).2.note = v.note := rfl
@[simp] theorem voiceStep_vel (c : Ctx α) (pl : Plan α) (v : Voice α) : (voiceStep c pl v).2.vel = v.vel := rfl
@[simp] theorem voiceStep_cur (c : Ctx α) (pl : Plan α) (v : Voice α) : (voiceStep c pl v).2.cur = v.cur := rfl
@[simp] theorem voiceStep_rel (c : Ctx α) (pl : Plan α) (v : Voice α) : (voiceStep c pl v).2.rel = v.rel := rfl
@[simp] theorem voiceStep_fade (c : Ctx α) (pl : Plan α) (v : Voice α) : (voiceStep c pl v).2.fade = v.fade := rfl
@[simp] theorem voiceStep_seed (c : Ctx α) (pl : Plan α) (v : Voice α) : (voiceStep c pl v).2.seed = v.seed := rfl
@[simp] theorem voiceStep_phase (c : Ctx α) (pl : Plan α) (v : Voice α) :
    (voiceStep c pl v).2.phase = some (phaseStep c.num (v.phaseOr c.par.initPhase) pl.period) := rfl

@[simp] theorem voiceSample_eq (c : Ctx α) (i cur : Nat) (v : Voice α) :
    voiceSample c i cur v = voiceStep c (makePlan c v (frameOffset c.par cur i)) v := rfl

@[simp] theorem frameVoice_note (c : Ctx α) (i : Nat) (v : Voice α) : (frameVoice c i v).note = v.note := by
  unfold frameVoice; split <;> rfl
@[simp] theorem frameVoice_vel (c : Ctx α) (i : Nat) (v : Voice α) : (frameVoice c i v).vel = v.vel := by
  unfold frameVoice; split <;> rfl
@[simp] theorem frameVoice_cur (c : Ctx α) (i : Nat) (v : Voice α) : (frameVoice c i v).cur = v.cur := by
  unfold frameVoice; split <;> rfl
@[simp] theorem frameVoice_rel (c : Ctx α) (i : Nat) (v : Voice α) : (frameVoice c i v).rel = v.rel := by
  unfold frameVoice; split <;> rfl
@[simp] theorem frameVoice_fade (c : Ctx α) (i : Nat) (v : Voice α) : (frameVoice c i v).fade = v.fade := by
  unfold frameVoice; split <;> rfl
@[simp] theorem frameVoice_seed (c : Ctx α) (i : Nat) (v : Voice α) : (frameVoice c i v).seed = v.seed := by
  unfold frameVoice; split <;> rfl

theorem frameVoice_of_free (c : Ctx α) (i : Nat) {v : Voice α} (h : v.cur = none) : frameVoice c i v = v := by
  simp [frameVoice, h]

/-! ## A frame -/

/-- Every slot goes through a frame by itself. -/
theorem mixVoices_voices (c : Ctx α) (i : Nat) (acc : α) (vs : List (Voice α)) :
    (mixVoices c i acc vs).2 = vs.map (frameVoice c i) := by
  induction vs generalizing acc with
  | nil => rfl
  | cons v vs ih =>
    simp only [mixVoices, List.map_cons]
    cases h : v.cur <;> simp only [ih] <;> simp [frameVoice, h]

/-- The mixed sample is the sum of the slots' samples. -/
theorem mixVoices_sample (c : Ctx α) (i : Nat) (acc : α) (vs : List (Voice α)) :
    (mixVoices c i acc vs).1 = acc + (vs.map (frameSample c i)).sum := by
  induction vs generalizing acc with
  | nil => simp [mixVoices]
  | cons v vs ih =>
    simp only [mixVoices, List.map_cons, List.sum_cons]
    cases h : v.cur <;> simp only [ih] <;> simp [frameSample, h, add_assoc]

@[simp] theorem mixFrame_voices (c : Ctx α) (i : Nat) (vs : List (Voice α)) :
    (mixFrame c i vs).2 = vs.map (frameVoice c i) := mixVoices_voices c i 0 vs

theorem mixFrame_sample (c : Ctx α) (i : Nat) (vs : List (Voice α)) :
    (mixFrame c i vs).1 = (vs.map (frameSample c i)).sum := by
  simp [mixFrame, mixVoices_sample]

/-! ## The loop -/

/-- The loop keeps the number of slots. -/
theorem renderLoop_length (c : Ctx α) (n i : Nat) (vs : List (Voice α)) (out : OutMem) :
    (renderLoop c n i vs out).1.length = vs.length := by
  induction n generalizing i vs out with
  | zero => rfl
  | succ n ih => simp [renderLoop, ih]

/-- The loop writes no entry outside its frames. -/
theorem renderLoop_read_outside (c : Ctx α) (n i j : Nat) (vs : List (Voice α)) (out : OutMem)
    (h : j < i ∨ i + n ≤ j) : OutMem.read (renderLoop c n i vs out).2 j = OutMem.read out j := by
  induction n generalizing i vs out with
  | zero => rfl
  | succ n ih =>
    simp only [renderLoop]
    rw [ih (i + 1) _ _ (by omega)]
    have : j ≠ i := by omega
    simp [outWrite, OutMem.read_write, this]

/-- The loop keeps the canonical form of `OUT`. -/
theorem renderLoop_wf (c : Ctx α) (n i : Nat) (vs : List (Voice α)) (out : OutMem)
    (hb : i + n ≤ Config.bufMax) (h : OutMem.wf out = true) : OutMem.wf (renderLoop c n i vs out).2 = true := by
  induction n generalizing i vs out with
  | zero => exact h
  | succ n ih => exact ih (i + 1) _ _ (by omega) (OutMem.write_wf (by omega) h)

end Generic

end Sys2Proof.Machine
end

