-- ==== Sys2Proof/Laws/Exec.lean ====
section
/-! SUPPORT. One inversion lemma per operation run as an instruction, in any number system, and for the step: what it
can answer, guards included; and that `exec` and `step` are the generic ones at the machine's own numbers. -/

set_option linter.unusedSectionVars false

namespace Sys2Proof.Machine

section Generic
variable {α : Type} [Zero α] [One α] [Add α] [Sub α] [Neg α] [Mul α] [Div α] [NatCast α] [IntCast α]
  [LT α] [LE α] [DecidableLT α] [DecidableLE α] [Max α]

theorem noteOn_of_velocity {note : Note} {opd : Word} {vel : α} {s : State α} (h : velocityOf opd = some vel) :
    noteOn note opd s = { s with voices := noteOnVoices s.par note vel s.voices } := by simp [noteOn, h]

theorem noteOn_refused {note : Note} {opd : Word} {s : State α} (h : (velocityOf opd : Option α) = none) :
    noteOn note opd s = refuseCommand .badOperand s := by simp [noteOn, h]

theorem runNoteOn_eq_next {note : Note} {opd : Word} {s t : State α} :
    runNoteOn note opd s = .next t ↔ s.configOk = true ∧ t = noteOn note opd s := by
  unfold runNoteOn
  rw [withConfig_eq_next]
  constructor
  · rintro ⟨k, hk, h⟩; exact ⟨(kind?_eq_some.mp hk).1, by simpa [eq_comm] using h⟩
  · rintro ⟨hc, rfl⟩; obtain ⟨k, hk⟩ := kind?_of_configOk hc; exact ⟨k, hk, rfl⟩

theorem runNoteOff_eq_next {note : Note} {s t : State α} :
    runNoteOff note s = .next t ↔ s.configOk = true ∧ t = noteOff note s := by
  unfold runNoteOff
  rw [withConfig_eq_next]
  constructor
  · rintro ⟨k, hk, h⟩; exact ⟨(kind?_eq_some.mp hk).1, by simpa [eq_comm] using h⟩
  · rintro ⟨hc, rfl⟩; obtain ⟨k, hk⟩ := kind?_of_configOk hc; exact ⟨k, hk, rfl⟩

theorem runRender_eq_next {N : Numerics α} {count : Count} {s t : State α} :
    runRender N count s = .next t ↔ ∃ k, s.kind? = some k ∧ t = renderWith N k count.toNat s := by
  unfold runRender
  rw [withConfig_eq_next]
  simp [eq_comm]

theorem runWave_eq_next {N : Numerics α} {k : Kind} {s t : State α} :
    runWave N k s = .next t ↔ s.configOk = true ∧ phaseOk s.seq.phase = true ∧
      t = s.setResult (wave N s.table k s.seq.phase) := by
  unfold runWave
  rw [withConfig_eq_next]
  constructor
  · rintro ⟨k', hk, h⟩
    obtain ⟨hd, h⟩ := inDomain_eq_next.mp h
    exact ⟨(kind?_eq_some.mp hk).1, hd, by simpa [eq_comm] using h⟩
  · rintro ⟨hc, hd, rfl⟩; obtain ⟨k', hk⟩ := kind?_of_configOk hc; exact ⟨k', hk, by simp [hd, inDomain]⟩

theorem runOscTable_eq_next {N : Numerics α} {s t : State α} :
    runOscTable N s = .next t ↔ tableOk s.table = true ∧ runWave N .table s = .next t := by
  unfold runOscTable
  rw [withConfig_eq_next]
  constructor
  · rintro ⟨k, hk, h⟩; exact inDomain_eq_next.mp h
  · rintro ⟨ht, h⟩
    obtain ⟨k, hk⟩ := kind?_of_configOk (runWave_eq_next.mp h).1
    exact ⟨k, hk, inDomain_eq_next.mpr ⟨ht, h⟩⟩

theorem runOscStateless_eq_next {N : Numerics α} {k : Kind} {P o : α} {s t : State α} :
    runOscStateless N k P o s = .next t ↔ s.configOk = true ∧
      (periodOk P && offsetOk o && kindOk k s.table) = true ∧
      t = s.setResult (oscStateless N s.table k P o) := by
  unfold runOscStateless
  rw [withConfig_eq_next]
  constructor
  · rintro ⟨k', hk, h⟩
    obtain ⟨hd, h⟩ := inDomain_eq_next.mp h
    exact ⟨(kind?_eq_some.mp hk).1, hd, by simpa [eq_comm] using h⟩
  · rintro ⟨hc, hd, rfl⟩
    obtain ⟨k', hk⟩ := kind?_of_configOk hc
    exact ⟨k', hk, inDomain_eq_next.mpr ⟨hd, rfl⟩⟩

theorem runOscAcc_eq_next {N : Numerics α} {slot : Nat} {k : Kind} {P : α} {s t : State α} :
    runOscAcc N slot k P s = .next t ↔ s.configOk = true ∧ (periodOk P && kindOk k s.table) = true ∧
      ∃ v, s.voices[slot]? = some v ∧
        t = (s.setVoice slot (oscAcc N s.par.initPhase s.table k P v).2).setResult
          (oscAcc N s.par.initPhase s.table k P v).1 := by
  unfold runOscAcc
  rw [withConfig_eq_next]
  constructor
  · rintro ⟨k', hk, h⟩
    obtain ⟨hd, h⟩ := inDomain_eq_next.mp h
    obtain ⟨v, hv, h⟩ := withSlot_eq_next.mp h
    exact ⟨(kind?_eq_some.mp hk).1, hd, v, hv, by simpa [eq_comm] using h⟩
  · rintro ⟨hc, hd, v, hv, rfl⟩
    obtain ⟨k', hk⟩ := kind?_of_configOk hc
    exact ⟨k', hk, inDomain_eq_next.mpr ⟨hd, withSlot_eq_next.mpr ⟨v, hv, rfl⟩⟩⟩

theorem runOscNoise_eq_next {N : Numerics α} {seed k : Nat} {s t : State α} :
    runOscNoise N seed k s = .next t ↔ s.configOk = true ∧ noiseOk s.par seed k = true ∧
      t = s.setResult (noise N seed k) := by
  unfold runOscNoise
  rw [withConfig_eq_next]
  constructor
  · rintro ⟨k', hk, h⟩
    obtain ⟨hd, h⟩ := inDomain_eq_next.mp h
    exact ⟨(kind?_eq_some.mp hk).1, hd, by simpa [eq_comm] using h⟩
  · rintro ⟨hc, hd, rfl⟩
    obtain ⟨k', hk⟩ := kind?_of_configOk hc
    exact ⟨k', hk, inDomain_eq_next.mpr ⟨hd, rfl⟩⟩

theorem runEnvSample_eq_next {A D S R o : α} {rel : Option α} {s t : State α} :
    runEnvSample A D S R o rel s = .next t ↔ s.configOk = true ∧ envOk A D S R o rel = true ∧
      t = s.setResult (env s.par.envReleaseClamp A D S R o rel) := by
  unfold runEnvSample
  rw [withConfig_eq_next]
  constructor
  · rintro ⟨k', hk, h⟩
    obtain ⟨hd, h⟩ := inDomain_eq_next.mp h
    exact ⟨(kind?_eq_some.mp hk).1, hd, by simpa [eq_comm] using h⟩
  · rintro ⟨hc, hd, rfl⟩
    obtain ⟨k', hk⟩ := kind?_of_configOk hc
    exact ⟨k', hk, inDomain_eq_next.mpr ⟨hd, rfl⟩⟩

theorem runLpfStep_eq_next {N : Numerics α} {slot : Nat} {u f sr : α} {s t : State α} :
    runLpfStep N slot u f sr s = .next t ↔ s.configOk = true ∧ lpfOk f sr = true ∧
      ∃ v, s.voices[slot]? = some v ∧
        t = (s.setVoice slot (lpfStep N u f sr v).2).setResult (lpfStep N u f sr v).1 := by
  unfold runLpfStep
  rw [withConfig_eq_next]
  constructor
  · rintro ⟨k', hk, h⟩
    obtain ⟨hd, h⟩ := inDomain_eq_next.mp h
    obtain ⟨v, hv, h⟩ := withSlot_eq_next.mp h
    exact ⟨(kind?_eq_some.mp hk).1, hd, v, hv, by simpa [eq_comm] using h⟩
  · rintro ⟨hc, hd, v, hv, rfl⟩
    obtain ⟨k', hk⟩ := kind?_of_configOk hc
    exact ⟨k', hk, inDomain_eq_next.mpr ⟨hd, withSlot_eq_next.mpr ⟨v, hv, rfl⟩⟩⟩

theorem runPlan_eq_next {N : Numerics α} {slot frame : Nat} {s t : State α} :
    runPlan N slot frame s = .next t ↔ ∃ k, s.kind? = some k ∧ frameOk frame = true ∧
      ∃ v c, s.voices[slot]? = some v ∧ v.cur = some c ∧
        t = s.setPlan (makePlan (s.ctx N k) v (frameOffset s.par c frame)) := by
  unfold runPlan
  rw [withConfig_eq_next]
  refine exists_congr fun k => and_congr_right fun hk => ?_
  rw [inDomain_eq_next, withSounding_eq_next]
  refine and_congr_right fun _ => exists_congr fun v => exists_congr fun c => ?_
  exact and_congr_right fun _ => and_congr_right fun _ =>
    ⟨fun h => by injection h with h; exact h.symm, fun h => by rw [h]⟩

theorem runVoiceSample_eq_next {N : Numerics α} {slot frame : Nat} {s t : State α} :
    runVoiceSample N slot frame s = .next t ↔ ∃ k, s.kind? = some k ∧ frameOk frame = true ∧
      ∃ v c, s.voices[slot]? = some v ∧ v.cur = some c ∧
        t = ((s.setPlan (makePlan (s.ctx N k) v (frameOffset s.par c frame))).setVoice slot
          (voiceSample (s.ctx N k) frame c v).2).setResult (voiceSample (s.ctx N k) frame c v).1 := by
  unfold runVoiceSample
  rw [withConfig_eq_next]
  refine exists_congr fun k => and_congr_right fun hk => ?_
  rw [inDomain_eq_next, withSounding_eq_next]
  refine and_congr_right fun _ => exists_congr fun v => exists_congr fun c => ?_
  exact and_congr_right fun _ => and_congr_right fun _ =>
    ⟨fun h => by injection h with h; exact h.symm, fun h => by rw [h]⟩

theorem runMixFrame_eq_next {N : Numerics α} {frame : Nat} {s t : State α} :
    runMixFrame N frame s = .next t ↔ ∃ k, s.kind? = some k ∧ frameOk frame = true ∧
      t = { s with voices := (mixFrame (s.ctx N k) frame s.voices).2 }.setResult
        (mixFrame (s.ctx N k) frame s.voices).1 := by
  unfold runMixFrame
  rw [withConfig_eq_next]
  refine exists_congr fun k => and_congr_right fun hk => ?_
  rw [inDomain_eq_next]
  exact and_congr_right fun _ => ⟨fun h => by injection h with h; exact h.symm, fun h => by rw [h]⟩

/-! ## The fetch -/

/-- What the sequencer finds, case by case. -/
theorem fetch_cases (s : State α) :
    (s.kind? = none ∧ fetch s = .noMeaning) ∨
    (∃ k, s.kind? = some k ∧ s.seq.waveIssue = true ∧ fetch s = .run (kindInstr k) (s.setWaveIssue false)) ∨
    (∃ k, s.kind? = some k ∧ s.seq.waveIssue = false ∧
      ((decode s.port = .incomplete ∧ fetch s = .idle) ∨
       (∃ i rest, decode s.port = .command i rest ∧ fetch s = .run i (latchWords rest s)) ∨
       (∃ why rest, decode s.port = .illegal why rest ∧ fetch s = .illegal (latchWords rest s)))) := by
  unfold fetch
  cases hk : s.kind? with
  | none => simp
  | some k =>
    cases hw : s.seq.waveIssue with
    | true => simp
    | false => cases hd : decode s.port <;> simp

/-! ## The step -/

/-- A step, in any number system, that answers a next state: it waited, ran an instruction, or refused an illegal
command. -/
theorem stepOn_cases {N : Numerics α} {s t : State α} (h : stepOn N s = .next t) :
    (fetch s = .idle ∧ t = s) ∨
    (∃ i u, fetch s = .run i u ∧ execOn N i u = .next t) ∨
    (∃ u, fetch s = .illegal u ∧ u.configOk = true ∧ t = refuseCommand .illegalCmd u) := by
  unfold stepOn at h
  cases hf : fetch s with
  | idle => rw [hf] at h; exact .inl ⟨rfl, by simpa [eq_comm] using h⟩
  | run i u => rw [hf] at h; exact .inr (.inl ⟨i, u, rfl, h⟩)
  | illegal u => rw [hf] at h; exact .inr (.inr ⟨u, rfl, illegalCommand_eq_next.mp h⟩)
  | noMeaning => rw [hf] at h; cases h

end Generic

/-! ## The meanings of `exec` are these at the machine's own numbers -/

theorem execNoteOn_eq_next {note : Note} {opd : Word} {s t : State} :
    execNoteOn note opd s = .next t ↔ s.configOk = true ∧ t = noteOn note opd s := runNoteOn_eq_next

theorem execNoteOff_eq_next {note : Note} {s t : State} :
    execNoteOff note s = .next t ↔ s.configOk = true ∧ t = noteOff note s :=
  runNoteOff_eq_next

theorem execRender_eq_next {count : Count} {s t : State} :
    execRender count s = .next t ↔ ∃ k, s.kind? = some k ∧ t = renderWith freeNum k count.toNat s :=
  runRender_eq_next

theorem execOscTable_eq_next  {s t : State} :
    execOscTable s = .next t ↔ tableOk s.table = true ∧ runWave freeNum .table s = .next t :=
  runOscTable_eq_next

theorem execOscStateless_eq_next {k : Kind} {P o : Num} {s t : State} :
    execOscStateless k P o s = .next t ↔ s.configOk = true ∧
      (periodOk P && offsetOk o && kindOk k s.table) = true ∧
      t = s.setResult (oscStateless freeNum s.table k P o) :=
  runOscStateless_eq_next

theorem execOscAcc_eq_next {slot : Nat} {k : Kind} {P : Num} {s t : State} :
    execOscAcc slot k P s = .next t ↔ s.configOk = true ∧ (periodOk P && kindOk k s.table) = true ∧
      ∃ v, s.voices[slot]? = some v ∧
        t = (s.setVoice slot (oscAcc freeNum s.par.initPhase s.table k P v).2).setResult
          (oscAcc freeNum s.par.initPhase s.table k P v).1 :=
  runOscAcc_eq_next

theorem execOscNoise_eq_next {seed k : Nat} {s t : State} :
    execOscNoise seed k s = .next t ↔ s.configOk = true ∧ noiseOk s.par seed k = true ∧
      t = s.setResult (noise freeNum seed k) :=
  runOscNoise_eq_next

theorem execEnvSample_eq_next {A D S R o : Num} {rel : Option Num} {s t : State} :
    execEnvSample A D S R o rel s = .next t ↔ s.configOk = true ∧ envOk A D S R o rel = true ∧
      t = s.setResult (env s.par.envReleaseClamp A D S R o rel) :=
  runEnvSample_eq_next

theorem execLpfStep_eq_next {slot : Nat} {u f sr : Num} {s t : State} :
    execLpfStep slot u f sr s = .next t ↔ s.configOk = true ∧ lpfOk f sr = true ∧
      ∃ v, s.voices[slot]? = some v ∧
        t = (s.setVoice slot (lpfStep freeNum u f sr v).2).setResult (lpfStep freeNum u f sr v).1 :=
  runLpfStep_eq_next

theorem execPlan_eq_next {slot frame : Nat} {s t : State} :
    execPlan slot frame s = .next t ↔ ∃ k, s.kind? = some k ∧ frameOk frame = true ∧
      ∃ v c, s.voices[slot]? = some v ∧ v.cur = some c ∧
        t = s.setPlan (makePlan (s.ctx freeNum k) v (frameOffset s.par c frame)) :=
  runPlan_eq_next

theorem execVoiceSample_eq_next {slot frame : Nat} {s t : State} :
    execVoiceSample slot frame s = .next t ↔ ∃ k, s.kind? = some k ∧ frameOk frame = true ∧
      ∃ v c, s.voices[slot]? = some v ∧ v.cur = some c ∧
        t = ((s.setPlan (makePlan (s.ctx freeNum k) v (frameOffset s.par c frame))).setVoice slot
          (voiceSample (s.ctx freeNum k) frame c v).2).setResult (voiceSample (s.ctx freeNum k) frame c v).1 :=
  runVoiceSample_eq_next

theorem execMixFrame_eq_next {frame : Nat} {s t : State} :
    execMixFrame frame s = .next t ↔ ∃ k, s.kind? = some k ∧ frameOk frame = true ∧
      t = { s with voices := (mixFrame (s.ctx freeNum k) frame s.voices).2 }.setResult
        (mixFrame (s.ctx freeNum k) frame s.voices).1 :=
  runMixFrame_eq_next

/-- `exec` is the generic meaning at the machine's own numbers. -/
theorem execOn_freeNum (i : Instr) (s : State) : execOn freeNum i s = exec i s := by
  have h : ∀ q : Num, freeNum.ofRat q = q := fun q => Rat.cast_id q
  have hm : ∀ rel : Option Num, rel.map freeNum.ofRat = rel := fun rel => by cases rel <;> simp [h]
  cases i <;> simp only [execOn, exec, h, hm] <;> rfl

/-- `step` is the generic step at the machine's own numbers. -/
theorem stepOn_freeNum (s : State) : stepOn freeNum s = step s := by
  unfold stepOn step
  cases fetch s <;> simp only [execOn_freeNum]

/-- `stepOn_cases` of `step`. -/
theorem step_cases {s t : State} (h : step s = .next t) :
    (fetch s = .idle ∧ t = s) ∨
    (∃ i u, fetch s = .run i u ∧ exec i u = .next t) ∨
    (∃ u, fetch s = .illegal u ∧ u.configOk = true ∧ t = refuseCommand .illegalCmd u) := by
  simpa only [execOn_freeNum] using stepOn_cases ((stepOn_freeNum s).trans h)

end Sys2Proof.Machine
end

