-- ==== Sys2Proof/Laws/PerInstr.lean ====
section
/-! SUPPORT. Statements about every instruction, one lemma per constructor. -/

namespace Sys2Proof.Laws.TableRow

/-- The row's encoding has the length, the match and the mask of spec/opcode_table.json (R83 to R85, R90,
R91). -/
def Statement (i : Instr) : Prop :=
  match i with
  | .noteOn _ opd => ∃ w, encode i = .port [w, opd] ∧ w &&& 0xFFFFFF80#32 = 0x01000000#32
  | .noteOff _ => ∃ w, encode i = .port [w] ∧ w &&& 0xFFFFFF80#32 = 0x02000000#32
  | .render _ => ∃ w, encode i = .port [w] ∧ w &&& 0xFF000000#32 = 0x03000000#32
  | .oscSquare => encode i = .tag 0#3
  | .oscSaw => encode i = .tag 1#3
  | .oscTriangle => encode i = .tag 2#3
  | .oscSine => encode i = .tag 3#3
  | .oscTable => encode i = .tag 4#3
  | .oscStateless _ _ _ => encode i = .hardwired
  | .oscAcc _ _ _ => encode i = .hardwired
  | .oscNoise _ _ => encode i = .hardwired
  | .envSample _ _ _ _ _ _ => encode i = .hardwired
  | .lpfStep _ _ _ _ => encode i = .hardwired
  | .plan _ _ => encode i = .hardwired
  | .voiceSample _ _ => encode i = .hardwired
  | .mixFrame _ => encode i = .hardwired

/-- The fixed bits of a format N word. -/
theorem formatN_mask (opc : BitVec 8) (note : Note) :
    formatN opc note &&& 0xFFFFFF80#32 = (opc ++ 0#24 : BitVec 32) := by
  have hm : ∀ i < 32, (0xFFFFFF80#32).getLsbD i = decide (7 ≤ i) := by decide
  apply BitVec.eq_of_getLsbD_eq
  intro i hi
  simp only [formatN, BitVec.getLsbD_and, BitVec.getLsbD_append, hm i hi]
  by_cases h : i < 7
  · simp [show ¬ 7 ≤ i by omega, show i < 24 by omega]
  · by_cases h24 : i < 24
    · simp [h, h24, show i - 7 < 17 by omega]
    · simp [h, h24, show ¬ i - 7 < 17 by omega, show i - 7 - 17 = i - 24 by omega, show 7 ≤ i by omega]

/-- The fixed bits of a format R word. -/
theorem formatR_mask (opc : BitVec 8) (count : Count) :
    formatR opc count &&& 0xFF000000#32 = (opc ++ 0#24 : BitVec 32) := by
  have hm : ∀ i < 32, (0xFF000000#32).getLsbD i = decide (24 ≤ i) := by decide
  apply BitVec.eq_of_getLsbD_eq
  intro i hi
  simp only [formatR, BitVec.getLsbD_and, BitVec.getLsbD_append, hm i hi]
  by_cases h24 : i < 24
  · simp [h24]
  · simp [h24, show 24 ≤ i by omega]

theorem noteOn (note : Note) (opd : Word) : Statement (.noteOn note opd) :=
  ⟨formatN 0x01#8 note, rfl, formatN_mask _ _⟩
theorem noteOff (note : Note) : Statement (.noteOff note) := ⟨formatN 0x02#8 note, rfl, formatN_mask _ _⟩
theorem render (count : Count) : Statement (.render count) := ⟨formatR 0x03#8 count, rfl, formatR_mask _ _⟩
theorem oscSquare : Statement .oscSquare := rfl
theorem oscSaw : Statement .oscSaw := rfl
theorem oscTriangle : Statement .oscTriangle := rfl
theorem oscSine : Statement .oscSine := rfl
theorem oscTable : Statement .oscTable := rfl
theorem oscStateless (kind : Kind) (period offset : Num) : Statement (.oscStateless kind period offset) := rfl
theorem oscAcc (slot : Nat) (kind : Kind) (period : Num) : Statement (.oscAcc slot kind period) := rfl
theorem oscNoise (seed k : Nat) : Statement (.oscNoise seed k) := rfl
theorem envSample (attack decay sustain release offset : Num) (rel : Option Num) :
    Statement (.envSample attack decay sustain release offset rel) := rfl
theorem lpfStep (slot : Nat) (input cutoff sampleRate : Num) :
    Statement (.lpfStep slot input cutoff sampleRate) := rfl
theorem plan (slot frame : Nat) : Statement (.plan slot frame) := rfl
theorem voiceSample (slot frame : Nat) : Statement (.voiceSample slot frame) := rfl
theorem mixFrame (frame : Nat) : Statement (.mixFrame frame) := rfl

end Sys2Proof.Laws.TableRow
end

