-- ==== Sys2Proof/Machine/Asm.lean ====
section
/-! DEFINITION. The assembler syntax of the spec's test programs (R94): one command a line, `;` to the end
of the line a comment. How blanks separate, and what a blank line gives, is the model's (log 26). -/

namespace Sys2Proof.Machine

/-- A line of source, its operands read. -/
inductive AsmLine where
  | noteOn (note : Nat) (velocity : Num)
  | noteOff (note : Nat)
  | render (count : Nat)
  deriving DecidableEq, Repr

/-- The words a line assembles to, if its operands are in range (R94); a velocity must be exactly a
binary32 in `[0,1]`. -/
def assemble : AsmLine → Option (List Word)
  | .noteOn note velocity =>
    if note ≤ 127 ∧ velocityOf (toF32 velocity) = some velocity then
      some [BitVec.ofNat 32 (0x01000000 + note), toF32 velocity]
    else none
  | .noteOff note => if note ≤ 127 then some [BitVec.ofNat 32 (0x02000000 + note)] else none
  | .render count => if count ≤ 16777215 then some [BitVec.ofNat 32 (0x03000000 + count)] else none

/-- The characters before a comment. -/
def stripComment : List Char → List Char
  | [] => []
  | ch :: cs => if ch = ';' then [] else ch :: stripComment cs

/-- The tokens of a line: `cur` holds the characters of the token being read, last one first. A comma is a
token of its own; blanks and tabs separate. -/
def tokens (cur : List Char) : List Char → List (List Char)
  | [] => if cur.isEmpty then [] else [cur.reverse]
  | ch :: cs =>
    let done := if cur.isEmpty then [] else [cur.reverse]
    if ch = ' ' ∨ ch = '\t' then done ++ tokens [] cs
    else if ch = ',' then done ++ [','] :: tokens [] cs
    else tokens (ch :: cur) cs

/-- The value of a decimal digit. -/
def digitOf (ch : Char) : Option Nat := if '0' ≤ ch ∧ ch ≤ '9' then some (ch.toNat - 48) else none

/-- The number that digits after `acc` make. -/
def digitsFrom (acc : Nat) : List Char → Option Nat
  | [] => some acc
  | ch :: cs => (digitOf ch).bind fun d => digitsFrom (10 * acc + d) cs

/-- A decimal integer, at least one digit. -/
def parseNat : List Char → Option Nat
  | [] => none
  | ch :: cs => digitsFrom 0 (ch :: cs)

/-- The characters before the first dot, and those after it if there is one. -/
def splitDot : List Char → List Char × Option (List Char)
  | [] => ([], none)
  | ch :: cs => if ch = '.' then ([], some cs) else (ch :: (splitDot cs).1, (splitDot cs).2)

/-- A decimal number: digits, or digits, a dot and digits. -/
def parseDecimal (cs : List Char) : Option Num :=
  match splitDot cs with
  | (whole, none) => (parseNat whole).map fun n => (n : Num)
  | (whole, some part) =>
    (parseNat whole).bind fun n => (parseNat part).map fun f => (n : Num) + (f : Num) / ((10 ^ part.length : Nat) : Num)

/-- The command a line's tokens spell. -/
def parseTokens : List (List Char) → Option AsmLine
  | [op, a] =>
    if op = "note_off".toList then (parseNat a).map .noteOff
    else if op = "render".toList then (parseNat a).map .render
    else none
  | [op, a, comma, b] =>
    if op = "note_on".toList ∧ comma = [','] then
      (parseNat a).bind fun n => (parseDecimal b).map fun v => .noteOn n v
    else none
  | _ => none

/-- The words of one line of source; a line with no token gives none. -/
def assembleLine (line : List Char) : Option (List Word) :=
  match tokens [] (stripComment line) with
  | [] => some []
  | t :: ts => (parseTokens (t :: ts)).bind assemble

/-- The words of a program, line by line, in order. -/
def assembleProgram : List (List Char) → Option (List Word)
  | [] => some []
  | l :: ls => (assembleLine l).bind fun ws => (assembleProgram ls).map fun rest => ws ++ rest

end Sys2Proof.Machine
end

