-- ==== Sys2Proof/Tests/Slice0.lean ====
section
/-! SUPPORT. Tests: the refusals of well-formedness, words and numbers of spec/95_test_vectors.md and of the
rules' examples, and for each obligation with hypotheses a state and operands that meet them. -/

set_option Elab.async false

namespace Sys2Proof.Tests
open Sys2Proof Sys2Proof.Machine

/-! ## Well-formedness refuses an ill-formed term, check by check -/

theorem test_wf_phase : phaseOk 1 = false ∧ phaseOk (-1 / 8) = false ∧ phaseOk 0 = true := by decide +kernel
theorem test_wf_stateless_period : (Instr.oscStateless .saw 0 1).wf = false := by decide +kernel
theorem test_wf_stateless_offset : (Instr.oscStateless .saw 8 (-1)).wf = false := by decide +kernel
theorem test_wf_acc_period : (Instr.oscAcc 0 .saw (-8)).wf = false := by decide +kernel
theorem test_wf_env_times :
    (Instr.envSample (-1) 0 0 0 0 none).wf = false ∧ (Instr.envSample 0 (-1) 0 0 0 none).wf = false ∧
    (Instr.envSample 0 0 0 (-1) 0 none).wf = false := by decide +kernel
theorem test_wf_env_sustain :
    (Instr.envSample 0 0 (-1) 0 0 none).wf = false ∧ (Instr.envSample 0 0 2 0 0 none).wf = false := by decide +kernel
theorem test_wf_env_offsets :
    (Instr.envSample 0 0 1 0 (-1) none).wf = false ∧ (Instr.envSample 0 0 1 0 0 (some (-1))).wf = false := by
  decide +kernel
theorem test_wf_lpf : (Instr.lpfStep 0 1 0 3520).wf = false ∧ (Instr.lpfStep 0 1 388 0).wf = false := by decide +kernel
theorem test_wf_frame :
    (Instr.plan 0 16777215).wf = false ∧ (Instr.voiceSample 0 16777215).wf = false ∧
    (Instr.mixFrame 16777215).wf = false ∧ (Instr.mixFrame 16777214).wf = true := by decide

/-! ## Decoding: the words of vectors T80 to T92, the tags of R90 -/

theorem test_decode_note_on :
    decode [0x0100007F#32, 0x3F000000#32] = .command (.noteOn 127 0x3F000000#32) [] ∧
    decode [0x01000000#32, 0#32, 5#32] = .command (.noteOn 0 0) [5#32] := by decide
theorem test_decode_note_off : decode [0x02000045#32, 7#32] = .command (.noteOff 69) [7#32] := by decide
theorem test_decode_render :
    decode [0x03000000#32] = .command (.render 0) [] ∧ decode [0x03FFFFFF#32] = .command (.render 16777215) [] := by
  decide
theorem test_decode_illegal_opcode :
    decode [0x04000000#32] = .illegal .unassignedOpcode [] ∧ decode [0xFFFFFFFF#32] = .illegal .unassignedOpcode [] := by
  decide
theorem test_decode_illegal_reserved :
    decode [0x02000080#32] = .illegal .reservedBits [] ∧
    decode [0x01000145#32, 0x40000000#32] = .illegal .reservedBits [] := by decide
theorem test_decode_tags :
    decodeKind 0#32 = some .square ∧ decodeKind 1#32 = some .saw ∧ decodeKind 2#32 = some .triangle ∧
    decodeKind 3#32 = some .sine ∧ decodeKind 4#32 = some .table ∧ decodeKind 7#32 = none ∧ decodeKind 8#32 = none := by
  decide
theorem test_table_words :
    decodeTableWord 32 0x01000000 = some (.noteOn 0 0) ∧ decodeTableWord 64 0x3F8000000100003C = some (.noteOn 60 0x3F800000#32) ∧
    decodeTableWord 8 4 = some .oscTable ∧ decodeTableWord 8 5 = none := by decide

/-- Each vector's word placed after reset is the instruction the next step runs. -/
theorem test_fetch_word_render :
    step (State.reset.withFetchWord 32 0x03000000) = exec (.render 0) { State.reset with cmd := 0x03000000#32 } := by rfl
theorem test_fetch_word_tag :
    ((nextOf (step (State.reset.withFetchWord 8 1))).map fun t => t.seq.result) = some 1 := by decide +kernel

/-! ## Assembler (R94) and byte bus (R65) -/

theorem test_assemble :
    assembleProgram ["note_on 69, 0.5 ; half".toList, "".toList, "render 4".toList, "note_off 69".toList] =
      some [0x01000045#32, 0x3F000000#32, 0x03000004#32, 0x02000045#32] := by decide +kernel
theorem test_assemble_refuses :
    assembleLine "note_on 128, 1.0".toList = none ∧ assembleLine "note_on 60, 0.1".toList = none := by decide +kernel
theorem test_word_bytes : wordBytes 0x03000100#32 = [0x00#8, 0x01#8, 0x00#8, 0x03#8] := by decide

/-! ## binary32 (R63, R87) -/

theorem test_toF32_values :
    toF32 (1 : ℚ) = 0x3F800000#32 ∧ toF32 (1 / 2 : ℚ) = 0x3F000000#32 ∧ toF32 (-3 / 4 : ℚ) = 0xBF400000#32 := by decide +kernel
/-- A tie between two neighbours goes to the even fraction; the largest finite and what lies beyond. -/
theorem test_toF32_corners :
    toF32 (1 + 1 / 16777216 : ℚ) = 0x3F800000#32 ∧ toF32 (1 + 3 / 16777216 : ℚ) = 0x3F800002#32 ∧
    toF32 (f32Max : ℚ) = 0x7F7FFFFF#32 ∧ toF32 (f32Max + 1 : ℚ) = 0x7F800000#32 := by decide +kernel
theorem test_velocity :
    velocityOf (α := ℚ) 0x80000000#32 = some 0 ∧ velocityOf (α := ℚ) 0x3F800000#32 = some 1 ∧ velocityOf (α := ℚ) 0x3F800001#32 = none ∧
    velocityOf (α := ℚ) 0x7FC00000#32 = none ∧ velocityOf (α := ℚ) 0xBF800000#32 = none := by decide +kernel

/-! ## The instructions -/

/-- A voice with a note, counter, release and fade mark, as the vectors write it. -/
def voice (note : Note) (cur : Nat) (rel fade : Option Nat) : Voice ℚ :=
  { note := note, vel := 1, cur := some cur, rel := rel, fade := fade, phase := some 0, lpfLast := 0, seed := 0 }

/-- A block with these slots. -/
def block (vs : List (Voice ℚ)) : State :=
  { State.reset with par := { Config.params with seedInit := vs.map fun _ => 0 }, voices := vs }

/-- Notes, counters and marks of a register file, as the vectors write it. -/
def marks (s : State) : List (Note × Option Nat × Option Nat × Option Nat) :=
  s.voices.map fun v => (v.note, v.cur, v.rel, v.fade)

/-- T65: marked, then itself chosen. -/
theorem test_note_on_steals_marked :
    ((nextOf (exec (.noteOn 64 0x3F800000#32) (block [voice 60 4 none none, voice 64 9 none none, voice 67 2 none none]))).map marks) =
      some [(60, some 4, none, none), (64, some 0, none, none), (67, some 2, none, none)] := by decide +kernel
/-- T67: a fading voice is not marked again. -/
theorem test_note_on_fading :
    ((nextOf (exec (.noteOn 60 0x3F800000#32) (block [voice 60 9 none (some 4), voice 60 5 none none, Voice.reset 0]))).map marks) =
      some [(60, some 9, none, some 4), (60, some 5, none, some 5), (60, some 0, none, none)] := by decide +kernel
/-- T69. -/
theorem test_note_off_repeat :
    ((nextOf (exec (.noteOff 60) (block [voice 60 30 (some 30) none, Voice.reset 0]))).map fun t => (t.status, t.voices)) =
      some (1#32, [voice 60 30 (some 30) none, Voice.reset 0]) := by decide +kernel
/-- T72. -/
theorem test_note_off_active :
    ((nextOf (exec (.noteOff 60) (block [voice 60 9 none (some 4), voice 60 5 none none]))).map marks) =
      some [(60, some 9, none, some 4), (60, some 5, some 5, none)] := by decide +kernel

/-- Numbers for the vectors' filter coefficient 1/2 and whole octaves. -/
def vectorNum : Numerics ℚ := exactNum
  { pi := 355 / 113
    sin := fun _ => 0
    exp := fun _ => 1 / 2
    exp2 := fun x => pow2 ⌊x⌋
    noiseHash := fun _ _ => 1 / 3
    fadeGain := fun _ => 1 }

/-- Program P1's first RENDER: `OUT` and the slot after it. -/
theorem test_render_p1 :
    let t := renderWith vectorNum .saw 4 (block [{ voice 69 0 none none with phase := none }, Voice.reset 0])
    t.out = [(0, 0x3F000000#32), (1, 0x3F200000#32), (2, 0x3F100000#32), (3, 0x3ED00000#32)] ∧
      (t.voices.map (·.cur)) = [some 4, none] := by decide +kernel
/-- R163's ramp, R172: a fading voice two frames into a ramp of four, mixed after a fresh one. -/
theorem test_render_fading :
    (renderWith vectorNum .square 1
      { block [voice 69 0 none none, voice 69 2 none (some 0)] with
        par := { Config.params with fade := .ramp 4 } }).out = [(0, 0x3F400000#32)] := by decide +kernel

/-- A well-formed block with phase operand `p`. -/
def atPhase (p : ℚ) : State := { State.reset with seq := { Seq.reset with phase := p } }

/-- R102: the midpoint belongs to the second half. -/
theorem test_square_midpoint : ((nextOf (exec .oscSquare (atPhase (1 / 2)))).map fun t => t.seq.result) = some (-1) := by
  decide +kernel
/-- T11 at `o = 3`. -/
theorem test_saw : ((nextOf (exec .oscSaw (atPhase (3 / 8)))).map fun t => t.seq.result) = some (1 / 4) := by decide +kernel
/-- T12 at `o = 5`. -/
theorem test_triangle : ((nextOf (exec .oscTriangle (atPhase (5 / 8)))).map fun t => t.seq.result) = some (-1 / 2) := by
  decide +kernel
/-- R105 at a quarter turn. -/
theorem test_sine : wave freeNum [] .sine (1 / 4) = 1 := (freeSin_turn _).trans freeFns.sin_quarters.2.1
/-- T14 at `o = 7`: the wrap from the last entry to entry 0. -/
theorem test_table_wrap : ((nextOf (exec .oscTable (atPhase (7 / 8)))).map fun t => t.seq.result) = some (-1 / 2) := by
  decide +kernel
/-- T16: a table of one entry. -/
theorem test_table_single : wave vectorNum [1 / 4] .table (3 / 8) = 1 / 4 := by decide +kernel
/-- R110's example. -/
theorem test_stateless : ((nextOf (exec (.oscStateless .saw 8 11) State.reset)).map fun t => t.seq.result) = some (1 / 4) := by
  decide +kernel
/-- T18, second call: sampled before the advance, wrapped by more than a cycle. -/
theorem test_acc :
    ((nextOf (exec (.oscAcc 0 .saw (2 / 3)) (block [{ voice 60 0 none none with phase := some (1 / 2) }]))).map
      fun t => (t.seq.result, t.voices.map (·.phase))) = some (0, [some 0]) := by decide +kernel
/-- R120's widths. -/
theorem test_noise_domain :
    exec (.oscNoise (2 ^ 32) 0) State.reset = .fault .outsideDomain ∧
    exec (.oscNoise 0 (2 ^ 32)) State.reset = .fault .outsideDomain := ⟨by rfl, by rfl⟩
/-- T22, `o = 16`, with the clamp and without. -/
theorem test_env_clamp : env true (10 : ℚ) 10 (1 / 2) 10 16 (some 5) = 7 / 10 ∧ env false (10 : ℚ) 10 (1 / 2) 10 14 (some 5) = 1 / 20 := by
  decide +kernel
/-- T24: a gate drops to 0 at the release point itself. -/
theorem test_env_gate :
    ((nextOf (exec (.envSample 0 0 1 0 4 (some 4)) State.reset)).map fun t => t.seq.result) = some 0 := by decide +kernel
/-- R146's example: inputs 1, 1, -1 from rest at coefficient 1/2. -/
theorem test_lpf_example : lpfRun (1 / 2 : ℚ) 0 [1, 1, -1] = [1 / 2, 3 / 4, -1 / 8] := by decide +kernel
/-- T30: the cutoff `sr * ln 2 / (2 pi)` has coefficient 1/2. -/
theorem test_lpf_half (nh : Nat → Nat → ℝ) (fg : ℝ → ℝ) :
    lpfCoeff (realNum nh fg) (3520 * Real.log 2 / (2 * Real.pi)) 3520 = 1 / 2 := by
  have h : -2 * Real.pi * (3520 * Real.log 2 / (2 * Real.pi)) / 3520 = -Real.log 2 := by
    have := Real.pi_pos.ne'
    field_simp
  show Real.exp (-2 * Real.pi * (3520 * Real.log 2 / (2 * Real.pi)) / 3520) = 1 / 2
  rw [h, Real.exp_neg, Real.exp_log (by norm_num)]
  norm_num
/-- T40: 440 Hz at 3520 frames a second is a period of 8; the offset saturates. -/
theorem test_plan :
    (makePlan (State.reset.ctx vectorNum .saw) (voice 69 0 none none) (frameOffset Config.params (2 ^ 32 - 2) 5)).period = 8 ∧
    frameOffset Config.params (2 ^ 32 - 2) 5 = 2 ^ 32 - 1 := by decide +kernel
/-- R160's example. -/
theorem test_voice_sample :
    let r := voiceSample (State.reset.ctx vectorNum .saw) 0 0 { voice 69 0 none none with phase := none }
    r.1 = 1 / 2 ∧ r.2.phase = some (1 / 8) ∧ r.2.lpfLast = 1 / 2 := by decide +kernel
/-- R172: no sounding slot gives exactly 0. -/
theorem test_mix_silence : ((nextOf (exec (.mixFrame 0) State.reset)).map fun t => t.seq.result) = some 0 := by decide +kernel

/-! ## The hypotheses of the obligations can be met

Each theorem is named after its obligation; `ready` is a block with one released voice and a free slot. -/

def ready : State := block [voice 69 6 (some 4) none, Voice.reset 0]

/-- `ready` with words on the command port. -/
def withPort (ws : List Word) : State := { ready with port := ws }

theorem ready_config : ready.configOk = true := by decide +kernel
theorem ready_kind : ready.kind? = some .saw := by decide +kernel
theorem ready_phase : 0 ≤ ready.seq.phase ∧ ready.seq.phase < 1 := by decide +kernel
theorem ready_slot : ready.voices[0]? = some (voice 69 6 (some 4) none) := by rfl

theorem witness_DecodeOfEncode :
    encode (.noteOff 60) = .port [0x0200003C#32] ∧ encode .oscTable = .tag 4#3 := by decide
theorem witness_EncodeOfDecode : decode [0x0200003C#32, 1#32] = .command (.noteOff 60) [1#32] := by decide
theorem witness_FirstWordDecidesCommand_bounds :
    decode [0x02000000#32] = .command (.noteOff 0) [] ∧ decode [0x0200007F#32] = .command (.noteOff 127) [] ∧
    decode [0x02000080#32] = .illegal .reservedBits [] ∧ decode [0x02FFFFFF#32] = .illegal .reservedBits [] ∧
    decode [0x00FFFFFF#32] = .illegal .unassignedOpcode [] ∧ decode [0x03FFFFFF#32] = .command (.render 16777215) [] ∧
    decode [0x04000000#32] = .illegal .unassignedOpcode [] := by decide
theorem witness_FirstWordDecidesCommand_two_words :
    decode [0x0100007F#32, 9#32] = .command (.noteOn 127 9#32) [] ∧
    decode [0x01000080#32, 9#32] = .illegal .reservedBits [] ∧
    decode [0x01FFFFFF#32, 9#32] = .illegal .reservedBits [] := by decide
theorem witness_VelocityCheck :
    velocityOf (α := ℚ) 0x3F800000#32 = some 1 ∧ ready.configOk = true ∧ velocityOf (α := ℚ) 0x3F800001#32 = none := by decide +kernel
theorem witness_ToF32FixesBinary32 :
    (f32Decode 0x7F7FFFFF#32 : F32 ℚ) = .finite f32Max ∧ (f32Decode 0x80000000#32 : F32 ℚ) = .finite 0 := by decide +kernel
theorem witness_ToF32IsNearest :
    |(f32Max : ℚ)| ≤ f32Max ∧ (f32Max : ℚ) < f32Max + 1 ∧ (-f32Max - 1 : ℚ) < -f32Max ∧
    (f32Decode 1#32 : F32 ℚ) = .finite (pow2 (-149)) := by decide +kernel
theorem witness_SquareSawTriangleResults : ready.configOk = true ∧ 0 ≤ ready.seq.phase ∧ ready.seq.phase < 1 :=
  ⟨ready_config, ready_phase⟩
theorem witness_SineResult : (atPhase (3 / 4)).configOk = true ∧ (atPhase (3 / 4)).seq.phase = 3 / 4 := by decide +kernel
theorem witness_TableResult :
    (atPhase (7 / 8)).configOk = true ∧ tableOk (atPhase (7 / 8)).table = true ∧ 0 ≤ (atPhase (7 / 8)).seq.phase ∧
    (atPhase (7 / 8)).seq.phase < 1 := by decide +kernel
theorem witness_StatelessResult : ready.configOk = true ∧ tableOk ready.table = true ∧ (0 : ℚ) < 8 ∧ (0 : ℚ) ≤ 11 := by
  decide +kernel
theorem witness_StatelessPeriodic : (0 : ℚ) < 3 / 4 ∧ (0 : ℚ) ≤ 2 := by decide +kernel
theorem witness_WavesInRange :
    (0 : ℚ) ≤ 7 / 8 ∧ (7 / 8 : ℚ) < 1 ∧ Config.table ≠ [] ∧ ∀ x ∈ Config.table, -1 ≤ x ∧ x ≤ 1 := by decide +kernel
theorem witness_AccumulatorStep :
    ready.configOk = true ∧ tableOk ready.table = true ∧ (0 : ℚ) < 2 / 3 ∧
    ready.voices[0]? = some (voice 69 6 (some 4) none) := by decide +kernel
theorem witness_AccumulatorAgreesWithStateless : (0 : ℚ) < 8 ∧ (Voice.reset 0 : Voice ℚ).phase = none := by decide +kernel
theorem witness_PhaseContinuity : (0 : ℝ) ≤ 1 / 4 ∧ (1 / 4 : ℝ) < 1 ∧ (0 : ℝ) < 8 ∧ (1 / 4 + 1 / 8 : ℝ) < 1 / 2 := by norm_num
/-- The neighbours of the table of program P4, the last and the first among them, are within 1. -/
theorem witness_PhaseContinuity_table :
    Config.table ≠ [] ∧ ∀ n, n < 4 →
      |tabRead Config.table (if n + 1 = 4 then 0 else n + 1) - tabRead Config.table n| ≤ 1 := by decide +kernel
theorem witness_NoiseResult :
    ready.configOk = true ∧ 2 ^ 32 - 1 < 2 ^ ready.par.seedW ∧ 2 ^ 32 - 1 ≤ frameMax ready.par := by decide +kernel
theorem witness_EnvelopeResult :
    ready.configOk = true ∧ (0 : ℚ) ≤ 10 ∧ (0 : ℚ) ≤ 1 / 2 ∧ (1 / 2 : ℚ) ≤ 1 ∧ (0 : ℚ) ≤ 16 ∧
    ∀ r : ℚ, some (5 : ℚ) = some r → 0 ≤ r := by
  refine ⟨ready_config, by norm_num, by norm_num, by norm_num, by norm_num, ?_⟩
  rintro r ⟨⟩
  norm_num
theorem witness_EnvelopeRangeAndThresholds :
    (0 : ℚ) < 10 ∧ (0 : ℚ) ≤ 1 / 2 ∧ (1 / 2 : ℚ) ≤ 1 ∧ ∃ r : ℚ, some (30 : ℚ) = some r ∧ 0 ≤ r ∧ (10 : ℚ) + 10 < r :=
  ⟨by norm_num, by norm_num, by norm_num, 30, rfl, by norm_num, by norm_num⟩
theorem witness_EnvelopeMonotone :
    (0 : ℚ) < 10 ∧ (0 : ℚ) ≤ 1 / 2 ∧ (1 / 2 : ℚ) ≤ 1 ∧ (0 : ℚ) ≤ 4 ∧ (4 : ℚ) ≤ 10 ∧ (10 : ℚ) ≤ 12 := by norm_num
theorem witness_EnvelopeContinuous : (0 : ℝ) < 10 := by norm_num
theorem witness_FilterStep :
    ready.configOk = true ∧ (0 : ℚ) < 388 ∧ (0 : ℚ) < 3520 ∧ ready.voices[1]? = some (Voice.reset 0) := by decide +kernel
theorem witness_FilterCoefficientRange :
    (0 : ℚ) < 388 ∧ (388 : ℚ) < 1000 ∧ (3520 / 2 : ℚ) ≤ 1760 ∧ (3520 / 2 : ℚ) < 1761 ∧ |(0 : ℚ)| ≤ 1 ∧
    ∀ u ∈ [(1 : ℚ)], |u| ≤ 1 := by decide +kernel
theorem witness_FilterImpulseResponse (x : ℝ) :
    ∃ y : Nat → ℝ, ∀ n, (lpfRun x 0 (1 :: List.replicate n 0))[n]? = some (y n) := by
  have len : ∀ (us : List ℝ) (last : ℝ), (lpfRun x last us).length = us.length := by
    intro us
    induction us with
    | nil => intro last; rfl
    | cons u us ih => intro last; simp [lpfRun, ih]
  exact ⟨fun n => (lpfRun x 0 (1 :: List.replicate n 0))[n]'(by simp [len]), fun n => by simp [len]⟩
theorem witness_PlanResult :
    ready.kind? = some .saw ∧ 3 < Config.bufMax ∧ ready.voices[0]? = some (voice 69 6 (some 4) none) ∧
    9 = min (6 + 3) (2 ^ ready.par.frameW - 1) ∧ ready.cfg.oscModDepth = 0 ∧
    ({ ready with cfg := { ready.cfg with oscModDepth := -1 } } : State).kind? = some .saw := by decide +kernel
theorem witness_VoiceSampleIsItsUnits :
    ready.configOk = true ∧ 16777214 < Config.bufMax ∧ ready.voices[0]? = some (voice 69 6 (some 4) none) ∧
    (voice 69 6 (some 4) none).cur = some 6 ∧ (voice 69 6 (some 4) none).seed < 2 ^ ready.par.seedW := by decide +kernel
theorem witness_MixFrameIsItsVoices : ready.configOk = true ∧ 0 < Config.bufMax := by decide +kernel
theorem witness_RenderIsItsFrames : ready.configOk = true := ready_config
theorem witness_RenderVoiceByVoice : ready.kind? = some .saw := ready_kind
theorem witness_RenderNothing :
    ready.configOk = true ∧ ∀ v ∈ ready.voices, ∀ c, v.cur = some c → c ≤ frameMax ready.par := by
  refine ⟨ready_config, fun v hv c hc => ?_⟩
  have : v = voice 69 6 (some 4) none ∨ v = Voice.reset 0 := by simpa [ready, block] using hv
  rcases this with rfl | rfl
  · obtain rfl : 6 = c := by simpa [voice] using hc
    decide
  · simp [Voice.reset] at hc
theorem witness_RenderSilence : State.reset.configOk = true ∧ ∀ v ∈ State.reset.voices, v.cur = none := by decide +kernel
theorem witness_RenderSplits :
    (5#24).toNat = (2#24).toNat + (3#24).toNat ∧ ∃ t u w, exec (.render 2#24) ready = .next t ∧
      exec (.render 3#24) t = .next u ∧ exec (.render 5#24) ready = .next w := by
  refine ⟨by decide, _, _, _, execRender_eq_next.mpr ⟨.saw, ready_kind, rfl⟩, execRender_eq_next.mpr ⟨.saw, ?_, rfl⟩,
    execRender_eq_next.mpr ⟨.saw, ready_kind, rfl⟩⟩
  have h := renderLoop_length (ready.ctx freeNum .saw) (2#24).toNat 0 ready.voices ready.out
  have e : (renderWith freeNum .saw (2#24).toNat ready).configOk = ready.configOk := by
    simp only [renderWith, State.configOk, List.length_map, h]
  exact kind?_eq_some.mpr ⟨e.trans ready_config, by decide⟩
theorem witness_EndedVoiceAddsZero :
    ready.kind? = some .saw ∧ (voice 69 6 (some 4) none).cur = some 6 ∧ (voice 69 6 (some 4) none).rel = some 4 ∧
    (if ready.par.envReleaseClamp then max ((4 : Nat) : ℚ) 0 else (4 : Nat)) +
      ready.cfg.sampleRate * ready.cfg.ampEnv.releaseMs / 1000 ≤ (frameOffset ready.par 6 0 : ℚ) ∧
    0 = ready.cfg.sampleRate * ready.cfg.ampEnv.attackMs / 1000 +
      ready.cfg.sampleRate * ready.cfg.ampEnv.decayMs / 1000 := by decide +kernel
theorem witness_NoiseAndFadeUnread :
    sameFunctions vectorNum { vectorNum with noiseHash := fun _ _ => 1 } ∧ ready.cfg.noiseGain = 0 ∧
    ∀ v ∈ ready.voices, v.fade = none := ⟨⟨rfl, rfl, rfl, rfl, rfl, rfl⟩, rfl, by decide +kernel⟩
theorem witness_FadeTouchesOnlyTheGain :
    ready.kind? = some .saw ∧ (voice 69 6 none (some 4)).cur = some 6 ∧ (voice 69 6 none (some 4)).fade = some 4 ∧
    4 ≤ 6 ∧ 6 ≤ frameMax ready.par ∧ ready.par.fade = .free ∧
    ({ ready with par := { ready.par with fade := .ramp 4 } } : State).kind? = some .saw := by decide +kernel
/-- The ramp of four frames, before its end and at it. -/
theorem test_fade_ramp :
    fadeGain vectorNum (.ramp 4) 2 = 1 / 2 ∧ fadeGain vectorNum (.ramp 4) 4 = 0 := by decide +kernel
theorem witness_SelectVoiceOldestFirst : ready.voices ≠ [] := by decide +kernel
theorem witness_NoteOnResult : ready.configOk = true ∧ velocityOf (α := ℚ) 0x3F000000#32 = some (1 / 2) := by decide +kernel
theorem witness_NoteOnFillsInOrder :
    (velocityOf (α := ℚ) 0x3F800000#32).isSome = true ∧ 0 < State.reset.voices.length ∧
    (∀ j v, State.reset.voices[j]? = some v → (v.cur = none ↔ 0 ≤ j)) ∧
    ∃ t, exec (.noteOn 60 0x3F800000#32) State.reset = .next t := by
  refine ⟨by decide +kernel, by decide, fun j v h => ?_, _, execNoteOn_eq_next.mpr ⟨by decide +kernel, rfl⟩⟩
  have : v = Voice.reset 0 := by
    have := List.mem_of_getElem? h
    simpa [State.reset, State.resetWith, Config.params] using this
  simp [this, Voice.reset]
theorem witness_RetriggerMarksFading :
    (velocityOf (α := ℚ) 0x3F800000#32).isSome = true ∧ ready.voices[0]? = some (voice 69 6 (some 4) none) ∧
    ready.voices[1]? = some (Voice.reset 0) ∧ (Voice.reset 0 : Voice ℚ).cur = none ∧
    ∃ t, exec (.noteOn 69 0x3F800000#32) ready = .next t :=
  ⟨by decide +kernel, rfl, rfl, rfl, _, execNoteOn_eq_next.mpr ⟨ready_config, rfl⟩⟩
theorem witness_NoteOffResult :
    ready.configOk = true ∧ (∀ v ∈ ready.voices, ¬(v.cur.isSome = true ∧ v.fade = none ∧ v.note = 60)) ∧
    ready.voices[0]? = some (voice 69 6 (some 4) none) ∧ (voice 69 6 (some 4) none).rel.isSome = true ∧
    (block [voice 60 9 none (some 4), voice 60 5 none none]).voices[1]? = some (voice 60 5 none none) := by decide +kernel
theorem witness_NoteOffTwice : ∃ t, exec (.noteOff 69) ready = .next t :=
  ⟨_, execNoteOff_eq_next.mpr ⟨ready_config, rfl⟩⟩
theorem witness_NoteOffSparesFading :
    (block [voice 60 9 none (some 4)]).voices[0]? = some (voice 60 9 none (some 4)) ∧
    ∃ t, exec (.noteOff 60) (block [voice 60 9 none (some 4)]) = .next t :=
  ⟨rfl, _, execNoteOff_eq_next.mpr ⟨by decide +kernel, rfl⟩⟩
theorem witness_CommandFrames :
    (∃ t, exec (.noteOn 60 0#32) ready = .next t) ∧ (∃ t, exec (.noteOff 60) ready = .next t) ∧
    ∃ t, exec (.render 4#24) ready = .next t :=
  ⟨⟨_, execNoteOn_eq_next.mpr ⟨ready_config, rfl⟩⟩, ⟨_, execNoteOff_eq_next.mpr ⟨ready_config, rfl⟩⟩,
    _, execRender_eq_next.mpr ⟨.saw, ready_kind, rfl⟩⟩
theorem witness_UnitFrames :
    (∃ t, exec (.oscAcc 0 .saw 8) ready = .next t) ∧ (∃ t, exec (.lpfStep 0 1 388 3520) ready = .next t) ∧
    ∃ t, exec (.mixFrame 0) ready = .next t :=
  ⟨⟨_, execOscAcc_eq_next.mpr ⟨ready_config, by decide +kernel, _, ready_slot, rfl⟩⟩,
    ⟨_, execLpfStep_eq_next.mpr ⟨ready_config, by decide +kernel, _, ready_slot, rfl⟩⟩,
    _, execMixFrame_eq_next.mpr ⟨.saw, ready_kind, by decide, rfl⟩⟩
theorem witness_UnitsStopOutsideTheirDomain :
    (atPhase 1).configOk = true ∧ 1 ≤ (atPhase 1).seq.phase ∧ ready.configOk = true ∧ ready.voices.length ≤ 2 ∧
    ready.voices[1]? = some (Voice.reset 0) ∧ (Voice.reset 0 : Voice ℚ).cur = none ∧ 0 < Config.bufMax ∧
    (0 : ℚ) < 8 ∧ tableOk ready.table = true := by decide +kernel
/-- A table R9 does not allow, in a block of another kind. -/
theorem witness_UnitsStopOutsideTheirDomain_table :
    ({ ready with table := [] } : State).configOk = true ∧ ({ ready with table := [2] } : State).configOk = true := by
  decide +kernel
/-- Clause by clause at the boundary. -/
theorem witness_UnitsStopOutsideTheirDomain_bounds :
    exec (.oscStateless .saw 0 0) ready = .fault .outsideDomain ∧ exec (.oscAcc 0 .saw 0) ready = .fault .outsideDomain ∧
    exec (.lpfStep 0 1 0 3520) ready = .fault .outsideDomain ∧ exec .oscSaw (atPhase 1) = .fault .outsideDomain ∧
    exec (.envSample 0 0 2 0 0 none) ready = .fault .outsideDomain ∧
    exec (.oscNoise 0 (2 ^ 32)) ready = .fault .outsideDomain ∧ exec (.mixFrame Config.bufMax) ready = .fault .outsideDomain ∧
    exec (.plan 2 0) ready = .fault .noSuchSlot ∧ exec (.lpfStep 2 1 388 3520) ready = .fault .noSuchSlot ∧
    exec (.plan 1 0) ready = .fault .slotNotSounding :=
  ⟨rfl, rfl, rfl, rfl, rfl, rfl, rfl, rfl, rfl, rfl⟩
/-- OSC.ACC on a free slot runs (log 17). -/
theorem test_acc_free_slot : ∃ t, exec (.oscAcc 1 .saw 8) ready = .next t :=
  ⟨_, execOscAcc_eq_next.mpr ⟨ready_config, by decide +kernel, _, rfl, rfl⟩⟩
theorem witness_StepKeepsInvariant :
    BlockInv State.reset ∧ (∃ t, step State.reset = .next t) ∧ ∃ t, stepOn (exactNum freeFunctions) State.reset = .next t := by
  refine ⟨⟨?_, ?_, ?_, by decide, by decide, ?_, by decide⟩, ⟨_, rfl⟩, _, rfl⟩
  · intro slot v h
    have hv : v = Voice.reset 0 := by
      have := List.mem_of_getElem? h
      simpa [State.reset, State.resetWith, Config.params] using this
    have hs : seedInitOf State.reset.par slot = 0 := by
      rcases slot with _ | _ | slot <;> rfl
    subst hv
    constructor <;> simp [markOk, freeAsReset, Voice.reset, hs]
  · intro note a b v w hv hw ha
    have : v = Voice.reset 0 := by
      have := List.mem_of_getElem? hv
      simpa [State.reset, State.resetWith, Config.params] using this
    simp [this, Voice.activeOn, Voice.active, Voice.reset] at ha
  · intro a b v w _ hv hw _
    have : w = Voice.reset 0 := by
      have := List.mem_of_getElem? hw
      simpa [State.reset, State.resetWith, Config.params] using this
    simp [this, Voice.free, Voice.reset]
  · intro i h
    exact absurd h (Nat.not_lt_zero i)
theorem witness_SoundingStaysSounding :
    ready.voices[0]? = some (voice 69 6 (some 4) none) ∧ (voice 69 6 (some 4) none).cur.isSome = true ∧
    ∃ t, step ready = .next t := ⟨rfl, rfl, _, rfl⟩
theorem witness_ConfigurationIsReadOnly : ∃ t, step (withPort [0x0200003C#32]) = .next t := ⟨_, rfl⟩
theorem witness_CounterAdvance :
    ready.voices[0]? = some (voice 69 6 (some 4) none) ∧ (velocityOf (α := ℚ) 0x3F800000#32).isSome = true ∧
    velocityOf (α := ℚ) 0x40000000#32 = none ∧ (∃ t, exec (.noteOn 60 0x3F800000#32) ready = .next t) ∧
    (∃ t, exec (.noteOn 60 0x40000000#32) ready = .next t) ∧ (∃ t, exec (.noteOff 69) ready = .next t) ∧
    (∃ t, exec (.render 4#24) ready = .next t) ∧ ∃ t, illegalCommand ready = .next t :=
  ⟨rfl, by decide +kernel, by decide +kernel, ⟨_, execNoteOn_eq_next.mpr ⟨ready_config, rfl⟩⟩,
    ⟨_, execNoteOn_eq_next.mpr ⟨ready_config, rfl⟩⟩, ⟨_, execNoteOff_eq_next.mpr ⟨ready_config, rfl⟩⟩,
    ⟨_, execRender_eq_next.mpr ⟨.saw, ready_kind, rfl⟩⟩, _, illegalCommand_eq_next.mpr ⟨ready_config, rfl⟩⟩
theorem witness_StatusSticky : ∃ t, step (withPort [0#32]) = .next t := ⟨_, rfl⟩
theorem witness_StepRunsDecoded :
    ready.configOk = true ∧ ready.seq.waveIssue = false ∧ commandLength 0x0200003C#32 = 1 ∧
    decode [0x0200003C#32] = .command (.noteOff 60) [] ∧ commandLength 0x0100003C#32 = 2 ∧
    decode [0x0100003C#32, 0#32] = .command (.noteOn 60 0) [] ∧ (ready.setWaveIssue true).configOk = true ∧
    decodeKind (ready.setWaveIssue true).cfg.oscKind = some .saw := by decide +kernel
theorem witness_RefusalIsPrecise :
    (withPort [0x04000000#32]).configOk = true ∧ (withPort [0x04000000#32]).seq.waveIssue = false ∧
    (withPort [0x02000080#32]).configOk = true ∧ (withPort [0x01000145#32, 0x40000000#32]).configOk = true ∧
    (withPort [0x0100007F#32, 0x40000000#32]).configOk = true ∧ velocityOf (α := ℚ) 0x40000000#32 = none := by decide +kernel
theorem witness_WaitsForACommand :
    (withPort [0x01000000#32]).configOk = true ∧ (withPort [0x01000000#32]).seq.waveIssue = false ∧
    decode (withPort [0x01000000#32]).port = .incomplete ∧ decode (withPort [0x01FFFFFF#32]).port = .incomplete ∧
    decode ready.port = .incomplete ∧ decode [0x00FFFFFF#32] ≠ .incomplete ∧ decode [0x02000000#32] ≠ .incomplete := by
  decide +kernel
theorem witness_IllFormedConfigRefused :
    ({ ready with cfg := { ready.cfg with oscKind := 5#32 } } : State).configOk = false ∧
    ({ ready with par := { ready.par with frameW := 0 } } : State).configOk = false := by decide +kernel
theorem witness_HostReadsTheFrames :
    ready.kind? = some .saw ∧ ∃ t, exec (.render 4#24) ready = .next t :=
  ⟨ready_kind, _, execRender_eq_next.mpr ⟨.saw, ready_kind, rfl⟩⟩

end Sys2Proof.Tests
end

/-! ## An ill-formed configuration (R8, R9) -/

namespace Sys2Proof.Machine

section Refusal
variable {α : Type} [Zero α] [One α] [Add α] [Sub α] [Neg α] [Mul α] [Div α] [NatCast α] [IntCast α]
  [LT α] [LE α] [DecidableLT α] [DecidableLE α] [Max α]

/-- Each meaning asks for the configuration before anything else. -/
theorem execOn_refused {N : Numerics α} {s : State α} (h : s.configOk = false) (i : Instr) :
    execOn N i s = .refused .illFormedConfig := by
  cases i <;> exact withConfig_refused h

theorem stepOn_refused {N : Numerics α} {s : State α} (h : s.configOk = false) :
    stepOn N s = .refused .illFormedConfig := by
  have hk : s.kind? = none := by simpa [h] using kind?_isSome (s := s)
  simp [stepOn, fetch, hk]

end Refusal

/-- Settles O59: the guard of every meaning, and of the fetch, refuses. -/
theorem illFormedConfigRefused : Obligations.IllFormedConfigRefused := by
  intro s h
  refine ⟨?_, fun i => ?_⟩
  · rw [← stepOn_freeNum, stepOn_refused h]
  · rw [← execOn_freeNum, execOn_refused h]

/-! ## The instructions a step can run (R82, R90) -/

/-- One of the three commands (R82). -/
def isCommand (i : Instr) : Prop :=
  (∃ note opd, i = .noteOn note opd) ∨ (∃ note, i = .noteOff note) ∨ ∃ count, i = .render count

/-- Only the three commands have words on the port. -/
theorem decode_eq_command {ws rest : List Word} {i : Instr} (h : decode ws = .command i rest) : isCommand i := by
  unfold decode at h
  split at h
  next => cases h
  next w ws =>
    split at h
    next =>
      split at h
      next => cases h
      next opd rest =>
        split at h <;> cases h
        exact .inl ⟨_, _, rfl⟩
    next =>
      split at h
      next =>
        split at h <;> cases h
        exact .inr (.inl ⟨_, rfl⟩)
      next =>
        split at h <;> cases h
        exact .inr (.inr ⟨_, rfl⟩)

section Fetch
variable {α : Type} [Zero α] [One α] [Add α] [Sub α] [Neg α] [Mul α] [Div α] [NatCast α] [IntCast α]
  [LT α] [LE α] [DecidableLT α] [DecidableLE α] [Max α]

/-- What the sequencer runs: the configured waveform, or a command off the port. -/
theorem fetch_eq_run {s u : State α} {i : Instr} (h : fetch s = .run i u) :
    (∃ k, i = kindInstr k ∧ u = s.setWaveIssue false) ∨
    ∃ rest, u = latchWords rest s ∧ isCommand i := by
  rcases fetch_cases s with ⟨-, hf⟩ | ⟨k, -, -, hf⟩ | ⟨_, -, -, ⟨-, hf⟩ | ⟨_, rest, hd, hf⟩ | ⟨_, _, -, hf⟩⟩ <;>
    rw [h] at hf
  · cases hf
  · obtain ⟨rfl, rfl⟩ := Fetched.run.inj hf
    exact .inl ⟨k, rfl, rfl⟩
  · cases hf
  · obtain ⟨rfl, rfl⟩ := Fetched.run.inj hf
    exact .inr ⟨rest, rfl, decode_eq_command hd⟩
  · cases hf

/-- An illegal command, too, only had its words latched. -/
theorem fetch_eq_illegal {s u : State α} (h : fetch s = .illegal u) : ∃ rest, u = latchWords rest s := by
  rcases fetch_cases s with ⟨-, hf⟩ | ⟨_, -, -, hf⟩ | ⟨_, -, -, ⟨-, hf⟩ | ⟨_, _, -, hf⟩ | ⟨_, rest, -, hf⟩⟩ <;>
    rw [h] at hf <;> cases hf
  exact ⟨rest, rfl⟩

/-- A waveform issue writes the result latch and nothing else (R102 to R105, R108). -/
theorem execOn_kindInstr_eq_next {N : Numerics α} {k : Kind} {s t : State α}
    (h : execOn N (kindInstr k) s = .next t) : ∃ x, t = s.setResult x := by
  have hw : runWave N k s = .next t := by
    cases k with
    | square | saw | triangle | sine => exact h
    | table => exact (runOscTable_eq_next.mp h).2
  exact ⟨_, (runWave_eq_next.mp hw).2.2⟩

end Fetch

/-! ## Activity of a slot, and the searches of NOTE_ON and NOTE_OFF -/

section Activity
variable {α : Type}

theorem Voice.activeOn_iff {note : Note} {v : Voice α} :
    v.activeOn note = true ↔ v.cur ≠ none ∧ v.fade = none ∧ v.note = note := by
  simp [Voice.activeOn, Voice.active, Option.isSome_iff_ne_none, and_assoc]

theorem Voice.free_iff {v : Voice α} : v.free = true ↔ v.cur = none := by simp [Voice.free]

/-- Step 1 of NOTE_ON leaves no slot active on its note, and leaves the slots of other notes alone. -/
theorem markFading_activeOn {note note' : Note} {v : Voice α} :
    (markFading note v).activeOn note' = true ↔ v.activeOn note' = true ∧ note' ≠ note := by
  by_cases h : v.activeOn note = true
  · have hm : markFading note v = { v with fade := v.cur } := by simp [markFading, h]
    obtain ⟨-, -, hn⟩ := Voice.activeOn_iff.mp h
    rw [hm, Voice.activeOn_iff, Voice.activeOn_iff]
    constructor
    · rintro ⟨hc, hc', -⟩; exact absurd hc' hc
    · rintro ⟨⟨-, -, hn'⟩, hne⟩; exact absurd (hn'.symm.trans hn) hne
  · have hm : markFading note v = v := by simp [markFading, h]
    rw [hm]
    exact ⟨fun h' => ⟨h', fun he => h (he ▸ h')⟩, And.left⟩

/-- Against an unset key, which is `+inf`, no later slot wins. -/
theorem selectFrom_none (best i : Nat) (vs : List (Voice α)) : selectFrom best none i vs = best := by
  induction vs generalizing i with
  | nil => rfl
  | cons v vs ih => cases hc : v.cur <;> simp [selectFrom, keyGreater, hc, ih]

/-- A free slot is at or above the one the scan of R187 chooses. -/
theorem selectFrom_le_free {best : Nat} {key : Option Nat} {i j : Nat} {vs : List (Voice α)} {v : Voice α}
    (hbest : best < i) (hv : vs[j]? = some v) (hfree : v.cur = none) : selectFrom best key i vs ≤ i + j := by
  induction vs generalizing best key i j with
  | nil => simp at hv
  | cons u vs ih =>
    cases j with
    | zero =>
      obtain rfl : u = v := by simpa using hv
      cases key <;> simp [selectFrom, keyGreater, hfree, selectFrom_none, hbest.le]
    | succ j =>
      have hv' : vs[j]? = some v := by simpa using hv
      rw [selectFrom, show i + (j + 1) = i + 1 + j by omega]
      split
      · exact ih (Nat.lt_succ_self i) hv'
      · exact ih (by omega) hv'

/-- `SelectVoice` passes no free slot by (R187, R39 6). -/
theorem selectVoice_le_free {j : Nat} {vs : List (Voice α)} {v : Voice α} (hv : vs[j]? = some v)
    (hfree : v.cur = none) : selectVoice vs ≤ j := by
  cases vs with
  | nil => simp at hv
  | cons u vs =>
    cases j with
    | zero =>
      obtain rfl : u = v := by simpa using hv
      simp [selectVoice, hfree, selectFrom_none]
    | succ j =>
      rw [Nat.add_comm]
      exact selectFrom_le_free Nat.zero_lt_one (by simpa using hv) hfree

/-- The search of NOTE_OFF answers a slot of the list that is active on the note. -/
theorem activeSlotFrom_eq_some {note : Note} {i a : Nat} {vs : List (Voice α)} {v : Voice α}
    (h : activeSlotFrom note i vs = some (a, v)) :
    ∃ j, a = i + j ∧ vs[j]? = some v ∧ v.activeOn note = true := by
  induction vs generalizing i with
  | nil => cases h
  | cons u vs ih =>
    rw [activeSlotFrom] at h
    split at h
    next hu => cases h; exact ⟨0, rfl, rfl, hu⟩
    next =>
      obtain ⟨j, rfl, hv, ha⟩ := ih h
      exact ⟨j + 1, by omega, hv, ha⟩

theorem activeSlot_eq_some {note : Note} {a : Nat} {vs : List (Voice α)} {v : Voice α}
    (h : activeSlot note vs = some (a, v)) : vs[a]? = some v ∧ v.activeOn note = true := by
  obtain ⟨j, rfl, hv, ha⟩ := activeSlotFrom_eq_some h
  exact ⟨by simpa using hv, ha⟩

/-- The two voices agree in what R39 (4) and (6) ask of a slot: whether it is free, and the note it is active on. -/
def Voice.playsAs (w v : Voice α) : Prop :=
  w.free = v.free ∧ ∀ note : Note, w.activeOn note = v.activeOn note

theorem Voice.playsAs_of_fields {w v : Voice α} (hn : w.note = v.note) (hf : w.fade = v.fade)
    (hc : w.cur.isSome = v.cur.isSome) : w.playsAs v := by
  constructor
  · simp [Voice.free, ← Option.not_isSome, hc]
  · intro note; simp [Voice.activeOn, Voice.active, hn, hf, hc]

/-- R39 (4) carries over to slots that are active on no more notes. -/
theorem activeUnique.of_slots {vs ws : List (Voice α)} (h : activeUnique vs)
    (hs : ∀ (slot : Nat) (w : Voice α), ws[slot]? = some w →
      ∃ v, vs[slot]? = some v ∧ ∀ note : Note, w.activeOn note = true → v.activeOn note = true) :
    activeUnique ws := by
  intro note a b v w hv hw hav haw
  obtain ⟨v', hv', hav'⟩ := hs a v hv
  obtain ⟨w', hw', haw'⟩ := hs b w hw
  exact h note a b v' w' hv' hw' (hav' note hav) (haw' note haw)

/-- R39 (6) carries over to slots that are free as before. -/
theorem freeLast.of_slots {vs ws : List (Voice α)} (h : freeLast vs)
    (hs : ∀ (slot : Nat) (w : Voice α), ws[slot]? = some w → ∃ v, vs[slot]? = some v ∧ w.free = v.free) :
    freeLast ws := by
  intro a b v w hab hv hw hf
  obtain ⟨v', hv', hfv⟩ := hs a v hv
  obtain ⟨w', hw', hfw⟩ := hs b w hw
  rw [hfw]
  exact h a b v' w' hab hv' hw' (hfv ▸ hf)

/-- A voice put on a slot that sounds already, or is the lowest free one, leaves the free slots last. -/
theorem freeLast.set {vs : List (Voice α)} {c : Nat} {u : Voice α} (h : freeLast vs) (hu : u.free = false)
    (hc : ∀ (j : Nat) (v : Voice α), vs[j]? = some v → v.free = true → c ≤ j) : freeLast (vs.set c u) := by
  intro a b v w hab hv hw hf
  rw [List.getElem?_set] at hv hw
  have hca : c ≠ a := by
    rintro rfl
    simp only [if_true] at hv
    split at hv <;> cases hv
    exact absurd hf (by simp [hu])
  rw [if_neg hca] at hv
  have := hc a v hv hf
  rw [if_neg (by omega)] at hw
  exact h a b v w hab hv hw hf

/-- A voice put on a slot when no slot is active on its note. -/
theorem activeUnique.set {vs : List (Voice α)} {c : Nat} {u : Voice α} (h : activeUnique vs)
    (hu : ∀ (j : Nat) (v : Voice α), vs[j]? = some v → v.activeOn u.note = false) :
    activeUnique (vs.set c u) := by
  have cases_of_active : ∀ {note : Note} {j : Nat} {w : Voice α}, (vs.set c u)[j]? = some w →
      w.activeOn note = true → (j = c ∧ note = u.note) ∨ (note ≠ u.note ∧ vs[j]? = some w) := by
    intro note j w hw ha
    rw [List.getElem?_set] at hw
    split at hw
    next hj =>
      split at hw <;> cases hw
      exact .inl ⟨hj.symm, (Voice.activeOn_iff.mp ha).2.2.symm⟩
    next =>
      refine .inr ⟨?_, hw⟩
      rintro rfl
      simp [hu j w hw] at ha
  intro note a b v w hv hw hav haw
  rcases cases_of_active hv hav with ⟨ha, hn⟩ | ⟨hn, hv'⟩ <;>
    rcases cases_of_active hw haw with ⟨hb, hn'⟩ | ⟨hn', hw'⟩
  · exact ha.trans hb.symm
  · exact absurd hn hn'
  · exact absurd hn' hn
  · exact h note a b v w hv' hw' hav haw

end Activity

/-! ## The rules of one slot (R39 1 to 3, R16, R36, R37) -/

theorem markOk_self (cur : Option Nat) : markOk cur cur := fun m h => ⟨m, h, le_rfl⟩

theorem markOk_none (cur : Option Nat) : markOk none cur := fun _ h => by cases h

/-- A mark stays at or before a counter that advances, saturating, from within its range. -/
theorem markOk.satAdd {α : Type} {par : Params α} {mark cur : Option Nat} (n : Nat) (h : markOk mark cur)
    (hc : ∀ c, cur = some c → c ≤ frameMax par) : markOk mark (cur.map fun c => satAdd par c n) := by
  intro m hm
  obtain ⟨c, rfl, hmc⟩ := h m hm
  exact ⟨_, rfl, le_min (hmc.trans (Nat.le_add_right c n)) (hmc.trans (hc c rfl))⟩

section VoiceRules
variable {α : Type} [Field α] [LinearOrder α]

theorem velocityOf_mem {opd : Word} {vel : α} (h : velocityOf opd = some vel) : 0 ≤ vel ∧ vel ≤ 1 := by
  unfold velocityOf at h
  split at h
  next =>
    split at h <;> cases h
    assumption
  all_goals cases h

theorem VoiceInv.advance {par : Params α} {slot : Nat} {v : Voice α} (n : Nat) (h : VoiceInv par slot v) :
    VoiceInv par slot (advance par n v) where
  rel_le := h.rel_le.satAdd n h.cur_le
  fade_le := h.fade_le.satAdd n h.cur_le
  free_reset hc := h.free_reset (by simpa using hc)
  cur_le c hc := by
    obtain ⟨c', -, rfl⟩ := Option.map_eq_some_iff.mp hc
    exact min_le_right _ _
  phase_mem := h.phase_mem
  seed_eq := h.seed_eq
  vel_mem := h.vel_mem

theorem VoiceInv.markFading {par : Params α} {slot : Nat} {v : Voice α} (note : Note) (h : VoiceInv par slot v) :
    VoiceInv par slot (markFading note v) := by
  unfold Machine.markFading
  split
  next ha =>
    exact { h with
      fade_le := markOk_self _
      free_reset := fun hc => absurd hc (Voice.activeOn_iff.mp ha).1 }
  next => exact h

/-- A sounding slot released at its counter. -/
theorem VoiceInv.release {par : Params α} {slot : Nat} {v : Voice α} (h : VoiceInv par slot v) (hc : v.cur ≠ none) :
    VoiceInv par slot { v with rel := v.cur } :=
  { h with rel_le := markOk_self _, free_reset := fun h' => absurd h' hc }

theorem voiceInv_freshVoice (par : Params α) (slot : Nat) (note : Note) {vel : α} (hvel : 0 ≤ vel ∧ vel ≤ 1) :
    VoiceInv par slot (freshVoice note vel (seedInitOf par slot)) where
  rel_le := markOk_none _
  fade_le := markOk_none _
  free_reset hc := by cases hc
  cur_le c hc := by cases hc; exact Nat.zero_le _
  phase_mem p hp := by cases hp
  seed_eq := rfl
  vel_mem := hvel

/-- A frame keeps the rules of a slot when `frac` is into `[0,1)`: the phase is the only field they speak of that a
frame writes. -/
theorem VoiceInv.frameVoice [IsStrictOrderedRing α] [FloorRing α] {F : Functions α} {c : Ctx α} {par : Params α}
    {slot : Nat} {v : Voice α} (hN : c.num = exactNum F) (i : Nat) (h : VoiceInv par slot v) :
    VoiceInv par slot (frameVoice c i v) := by
  cases hc : v.cur with
  | none => rwa [frameVoice_of_free c i hc]
  | some cur =>
    have hv : Machine.frameVoice c i v = (voiceSample c i cur v).2 := by simp [Machine.frameVoice, hc]
    rw [hv, voiceSample_eq]
    exact { h with
      free_reset := fun h' => by simp [hc] at h'
      phase_mem := fun p hp => by
        rw [voiceStep_phase, hN] at hp
        cases hp
        exact phaseStep_mem F _ }

theorem VoiceInv.voiceRun [IsStrictOrderedRing α] [FloorRing α] {F : Functions α} {c : Ctx α} {par : Params α}
    {slot : Nat} (hN : c.num = exactNum F) (n i : Nat) {v : Voice α} (h : VoiceInv par slot v) :
    VoiceInv par slot (voiceRun c n i v).2 := by
  induction n generalizing i v with
  | zero => exact h
  | succ n ih => exact ih (i + 1) (h.frameVoice hN i)

end VoiceRules

/-! ## RENDER, slot by slot and frame by frame (R170, R171) -/

section RenderLoop
variable {α : Type} [Field α] [LinearOrder α]

@[simp] theorem voiceRun_note (c : Ctx α) (n i : Nat) (v : Voice α) : (voiceRun c n i v).2.note = v.note := by
  induction n generalizing i v with
  | zero => rfl
  | succ n ih => simp [voiceRun, ih]

@[simp] theorem voiceRun_fade (c : Ctx α) (n i : Nat) (v : Voice α) : (voiceRun c n i v).2.fade = v.fade := by
  induction n generalizing i v with
  | zero => rfl
  | succ n ih => simp [voiceRun, ih]

@[simp] theorem voiceRun_cur (c : Ctx α) (n i : Nat) (v : Voice α) : (voiceRun c n i v).2.cur = v.cur := by
  induction n generalizing i v with
  | zero => rfl
  | succ n ih => simp [voiceRun, ih]

/-- The loop takes every slot through its frames by itself. -/
theorem renderLoop_voices (c : Ctx α) (n i : Nat) (vs : List (Voice α)) (out : OutMem) :
    (renderLoop c n i vs out).1 = vs.map fun v => (voiceRun c n i v).2 := by
  induction n generalizing i vs out with
  | zero => simp [renderLoop, voiceRun]
  | succ n ih => simp [renderLoop, voiceRun, ih]

/-- Each frame of the loop leaves the sum of its samples in `OUT`. -/
theorem renderLoop_read (c : Ctx α) (n i j : Nat) (vs : List (Voice α)) (out : OutMem) (hj : j < n) :
    OutMem.read (renderLoop c n i vs out).2 (i + j) =
      some (c.num.toF32 (vs.map fun v => ((voiceRun c n i v).1)[j]?.getD 0).sum) := by
  induction n generalizing i j vs out with
  | zero => omega
  | succ n ih =>
    cases j with
    | zero =>
      simp only [renderLoop]
      rw [renderLoop_read_outside c n (i + 1) _ _ _ (.inl (by omega))]
      simp [outWrite, OutMem.read_write, mixFrame_sample, voiceRun]
    | succ j =>
      simp only [renderLoop]
      rw [show i + (j + 1) = i + 1 + j by omega, ih (i + 1) j _ _ (by omega)]
      simp [voiceRun, Function.comp_def]

end RenderLoop

/-! ## The block's invariant (R39) -/

section Block
variable {α : Type} [Field α] [LinearOrder α]

/-- The invariant speaks of the parameters, the slots, STATUS and OUT only. -/
theorem BlockInv.congr {s t : State α} (h : BlockInv s) (hp : t.par = s.par) (hv : t.voices = s.voices)
    (hs : t.status = s.status) (ho : t.out = s.out) (hc : t.outCount = s.outCount) : BlockInv t where
  voice := by rw [hp, hv]; exact h.voice
  unique := by rw [hv]; exact h.unique
  freeSlots := by rw [hv]; exact h.freeSlots
  status_reserved := by rw [hs]; exact h.status_reserved
  out_wf := by rw [ho]; exact h.out_wf
  out_written := by rw [ho, hc]; exact h.out_written
  outCount_le := by rw [hc]; exact h.outCount_le

theorem BlockInv.latchWords {s : State α} (h : BlockInv s) (rest : List Word) : BlockInv (latchWords rest s) :=
  h.congr (by simp) (by simp) (by simp) (by simp) (by simp)

theorem BlockInv.setWaveIssue {s : State α} (h : BlockInv s) (b : Bool) : BlockInv (s.setWaveIssue b) :=
  h.congr rfl rfl rfl rfl rfl

theorem BlockInv.setResult {s : State α} (h : BlockInv s) (x : α) : BlockInv (s.setResult x) :=
  h.congr rfl rfl rfl rfl rfl

/-- No condition has a bit among the reserved ones (R45, R200). -/
theorem Condition.mask_reserved (c : Condition) : c.mask.extractLsb' 3 29 = 0#29 := by
  cases c <;> decide

theorem BlockInv.setFlag {s : State α} (h : BlockInv s) (c : Condition) : BlockInv (setFlag c s) :=
  { h with
    status_reserved := by
      rw [setFlag_status, BitVec.extractLsb'_or, h.status_reserved, c.mask_reserved]; rfl }

/-- New contents of the slots, each by the rules and playing as before. -/
theorem BlockInv.withVoices {s : State α} {ws : List (Voice α)} (h : BlockInv s)
    (hw : ∀ (slot : Nat) (w : Voice α), ws[slot]? = some w →
      VoiceInv s.par slot w ∧ ∃ v, s.voices[slot]? = some v ∧ w.playsAs v) : BlockInv { s with voices := ws } :=
  { h with
    voice := fun slot w hget => (hw slot w hget).1
    unique := h.unique.of_slots fun slot w hget => by
      obtain ⟨-, v, hv, -, ha⟩ := hw slot w hget
      exact ⟨v, hv, fun note hn => by rw [← ha note, hn]⟩
    freeSlots := h.freeSlots.of_slots fun slot w hget => by
      obtain ⟨-, v, hv, hf, -⟩ := hw slot w hget
      exact ⟨v, hv, hf⟩ }

/-- R185: NOTE_ON keeps R39. The chosen slot is free only if it is the lowest free one, and after step 1 no other
slot is active on the note. -/
theorem BlockInv.noteOnVoices {s : State α} (h : BlockInv s) (note : Note) {vel : α} (hvel : 0 ≤ vel ∧ vel ≤ 1) :
    BlockInv { s with voices := noteOnVoices s.par note vel s.voices } := by
  have marked : ∀ (j : Nat) (w : Voice α), (s.voices.map (Machine.markFading note))[j]? = some w →
      ∃ v, s.voices[j]? = some v ∧ w = Machine.markFading note v := by
    intro j w hw
    rw [List.getElem?_map] at hw
    obtain ⟨v, hv, rfl⟩ := Option.map_eq_some_iff.mp hw
    exact ⟨v, hv, rfl⟩
  refine { h with voice := ?_, unique := ?_, freeSlots := ?_ }
  · intro slot w hw
    simp only [Machine.noteOnVoices, List.getElem?_set] at hw
    split at hw
    next hc =>
      split at hw <;> cases hw
      subst hc
      exact voiceInv_freshVoice _ _ note hvel
    next =>
      obtain ⟨v, hv, rfl⟩ := marked slot w hw
      exact (h.voice slot v hv).markFading note
  · refine activeUnique.set (h.unique.of_slots fun j w hw => ?_) fun j w hw => ?_
    · obtain ⟨v, hv, rfl⟩ := marked j w hw
      exact ⟨v, hv, fun note' ha => (markFading_activeOn.mp ha).1⟩
    · obtain ⟨v, -, rfl⟩ := marked j w hw
      exact Bool.eq_false_iff.mpr fun ha => (markFading_activeOn.mp ha).2 rfl
  · refine freeLast.set (h.freeSlots.of_slots fun j w hw => ?_) rfl fun j w hw hf => ?_
    · obtain ⟨v, hv, rfl⟩ := marked j w hw
      exact ⟨v, hv, by simp [Voice.free]⟩
    · exact selectVoice_le_free hw (Voice.free_iff.mp hf)

theorem BlockInv.noteOn {s : State α} (h : BlockInv s) (note : Note) (opd : Word) : BlockInv (noteOn note opd s) := by
  cases hvel : (velocityOf opd : Option α) with
  | none => rw [noteOn_refused hvel]; exact h.setFlag .badOperand
  | some vel => rw [noteOn_of_velocity hvel]; exact h.noteOnVoices note (velocityOf_mem hvel)

/-- R190 to R193: NOTE_OFF keeps R39. -/
theorem BlockInv.noteOff {s : State α} (h : BlockInv s) (note : Note) : BlockInv (noteOff note s) := by
  unfold Machine.noteOff
  split
  next => exact h
  next a v hav =>
    obtain ⟨hv, hactive⟩ := activeSlot_eq_some hav
    split
    next =>
      refine h.withVoices fun slot w hw => ?_
      rw [List.getElem?_set] at hw
      split at hw
      next hslot =>
        split at hw <;> cases hw
        subst hslot
        exact ⟨(h.voice a v hv).release (Voice.activeOn_iff.mp hactive).1, v, hv,
          Voice.playsAs_of_fields rfl rfl rfl⟩
      next => exact ⟨h.voice slot w hw, w, hw, Voice.playsAs_of_fields rfl rfl rfl⟩
    next => exact h.setFlag .repeatOff

/-- R170: RENDER of at most `BUF_MAX` frames keeps R39. -/
theorem BlockInv.renderWith [IsStrictOrderedRing α] [FloorRing α] (F : Functions α) {s : State α} (h : BlockInv s)
    (k : Kind) {n : Nat} (hn : n ≤ Config.bufMax) : BlockInv (renderWith (exactNum F) k n s) := by
  have hslots : BlockInv { s with voices := (Machine.renderWith (exactNum F) k n s).voices } := by
    refine h.withVoices fun slot w hw => ?_
    rw [renderWith_voices, renderLoop_voices, List.map_map, List.getElem?_map] at hw
    obtain ⟨v, hv, rfl⟩ := Option.map_eq_some_iff.mp hw
    exact ⟨((h.voice slot v hv).voiceRun rfl n 0).advance n, v, hv,
      Voice.playsAs_of_fields (by simp) (by simp) (by simp)⟩
  exact { hslots with
    out_wf := renderLoop_wf _ n 0 s.voices s.out (by omega) h.out_wf
    out_written := fun i hi => by
      have hread := renderLoop_read (s.ctx (exactNum F) k) n 0 i s.voices s.out hi
      rw [Nat.zero_add] at hread
      rw [renderWith_out, hread]
      rfl
    outCount_le := hn }

end Block

/-! ## The step -/

section Step
variable {α : Type} [Field α] [LinearOrder α] [IsStrictOrderedRing α] [FloorRing α]

/-- The commands keep the invariant (the unit operations issued by themselves need not: OSC.ACC writes PHASE on a free
slot, log 17). -/
theorem BlockInv.execOn_command {F : Functions α} {i : Instr} {s t : State α} (h : BlockInv s)
    (hi : isCommand i) (ht : execOn (exactNum F) i s = .next t) : BlockInv t := by
  rcases hi with ⟨note, opd, rfl⟩ | ⟨note, rfl⟩ | ⟨count, rfl⟩
  · obtain ⟨-, rfl⟩ := runNoteOn_eq_next.mp ht
    exact h.noteOn note opd
  · obtain ⟨-, rfl⟩ := runNoteOff_eq_next.mp ht
    exact h.noteOff note
  · obtain ⟨k, -, rfl⟩ := runRender_eq_next.mp ht
    exact h.renderWith F k (Nat.le_pred_of_lt count.isLt)

theorem BlockInv.stepOn {F : Functions α} {s t : State α} (h : BlockInv s)
    (ht : stepOn (exactNum F) s = .next t) : BlockInv t := by
  rcases stepOn_cases ht with ⟨-, rfl⟩ | ⟨i, u, hf, hu⟩ | ⟨u, hf, -, rfl⟩
  · exact h
  · rcases fetch_eq_run hf with ⟨k, rfl, rfl⟩ | ⟨rest, rfl, hi⟩
    · obtain ⟨x, rfl⟩ := execOn_kindInstr_eq_next hu
      exact (h.setWaveIssue false).setResult x
    · exact (h.latchWords rest).execOn_command hi hu
  · obtain ⟨rest, rfl⟩ := fetch_eq_illegal hf
    exact (h.latchWords rest).setFlag .illegalCmd

end Step

/-- Settles O49: the step lemma in every exact number system; the machine's own step is this one at the
rationals. -/
theorem stepKeepsInvariant : Obligations.StepKeepsInvariant := by
  refine ⟨fun s t h ht => ?_, fun α _ _ _ _ F s t h ht => h.stepOn ht⟩
  rw [← stepOn_freeNum] at ht
  exact h.stepOn (F := freeFunctions) ht

end Sys2Proof.Machine

/-! ## Reset (R55, R220 to R222) -/

namespace Sys2Proof.Machine

section Reset
variable {α : Type} [Field α] [LinearOrder α]

/-- Right after reset a slot holds its reset state, seeded by its own entry of `SeedInit`. -/
theorem resetWith_slot {par : Params α} {cfg : Cfg α} {table : List α} {slot : Nat} {v : Voice α}
    (hv : (State.resetWith par cfg table).voices[slot]? = some v) : v = Voice.reset (seedInitOf par slot) := by
  rw [resetWith_voices, List.getElem?_map] at hv
  obtain ⟨seed, hseed, rfl⟩ := Option.map_eq_some_iff.mp hv
  simp [seedInitOf, List.getD_eq_getElem?_getD, hseed]

theorem voiceInv_reset [IsStrictOrderedRing α] (par : Params α) (slot : Nat) :
    VoiceInv par slot (Voice.reset (seedInitOf par slot)) where
  rel_le := markOk_none _
  fade_le := markOk_none _
  free_reset _ := ⟨rfl, rfl, rfl, rfl⟩
  cur_le c hc := by cases hc
  phase_mem p hp := by cases hp
  seed_eq := rfl
  vel_mem := ⟨le_rfl, zero_le_one⟩

/-- R39 holds right after reset: every slot is free. -/
theorem blockInv_resetWith [IsStrictOrderedRing α] (par : Params α) (cfg : Cfg α)
    (table : List α) : BlockInv (State.resetWith par cfg table) where
  voice slot v hv := by
    obtain rfl := resetWith_slot hv
    exact voiceInv_reset par slot
  unique note a b v w hv _ ha _ := by
    obtain rfl := resetWith_slot hv
    exact absurd rfl (Voice.activeOn_iff.mp ha).1
  freeSlots a b v w _ _ hw _ := by
    obtain rfl := resetWith_slot hw
    rfl
  status_reserved := by rw [resetWith_status]; rfl
  out_wf := rfl
  out_written i hi := absurd hi (Nat.not_lt_zero i)
  outCount_le := Nat.zero_le _

end Reset

/-- Settles O47: each slot is its reset slot, no entry of `OUT` is below the count 0, and the fifteen fields are latched
as they stand. -/
theorem resetState : Obligations.ResetState := by
  refine ⟨?_, fun _ _ _ _ _ _ _ _ _ _ _ _ _ _ _ _ => rfl⟩
  rintro cfg s _ rfl
  refine ⟨rfl, rfl, rfl, rfl, List.length_map .., fun slot v hv => ?_, fun i => if_neg (Nat.not_lt_zero i)⟩
  obtain rfl := resetWith_slot hv
  exact ⟨rfl, rfl, rfl, rfl, rfl, rfl⟩

/-- Settles O48: R39 at reset, at the rationals. -/
theorem resetMeetsInvariant : Obligations.ResetMeetsInvariant := blockInv_resetWith

/-! ## The counters of the slots (R25, R33) -/

section Counters
variable {α : Type}

/-- The `CUR` of every slot, in slot order. -/
def counters (vs : List (Voice α)) : List (Option Nat) := vs.map (·.cur)

@[simp] theorem counters_length (vs : List (Voice α)) : (counters vs).length = vs.length := List.length_map ..

theorem counters_getElem?_eq_some {slot : Nat} {vs : List (Voice α)} {cur : Option Nat} :
    (counters vs)[slot]? = some cur ↔ ∃ v, vs[slot]? = some v ∧ v.cur = cur := by
  rw [counters, List.getElem?_map, Option.map_eq_some_iff]

@[simp] theorem counters_set (vs : List (Voice α)) (slot : Nat) (w : Voice α) :
    counters (vs.set slot w) = (counters vs).set slot w.cur := List.map_set

/-- An update of a slot that keeps its `CUR` keeps the counters. -/
theorem counters_set_of_cur_eq {vs : List (Voice α)} {slot : Nat} {v w : Voice α} (hv : vs[slot]? = some v)
    (hw : w.cur = v.cur) : counters (vs.set slot w) = counters vs := by
  rw [counters_set, hw]
  obtain ⟨hlt, hget⟩ := List.getElem?_eq_some_iff.mp (counters_getElem?_eq_some.mpr ⟨v, hv, rfl⟩)
  rw [← hget, List.set_getElem_self]

/-- An update of every slot that keeps its `CUR` keeps the counters. -/
theorem counters_map_of_cur_eq {f : Voice α → Voice α} (hf : ∀ v, (f v).cur = v.cur) (vs : List (Voice α)) :
    counters (vs.map f) = counters vs := by
  simp [counters, hf]

/-! ### What the commands do to them (R25) -/

/-- The scan of R187 reads the counters only. -/
theorem selectFrom_map_of_cur_eq {f : Voice α → Voice α} (hf : ∀ v, (f v).cur = v.cur) (best : Nat)
    (key : Option Nat) (i : Nat) (vs : List (Voice α)) :
    selectFrom best key i (vs.map f) = selectFrom best key i vs := by
  induction vs generalizing best key i with
  | nil => rfl
  | cons v vs ih => simp only [List.map_cons, selectFrom, hf, ih]

/-- NOTE_OFF writes one slot's `REL`, or one flag, or nothing (R190 to R193). -/
theorem noteOff_cases (note : Note) (s : State α) :
    noteOff note s = s ∨ noteOff note s = setFlag .repeatOff s ∨
    ∃ a v, s.voices[a]? = some v ∧ noteOff note s = s.setVoice a { v with rel := v.cur } := by
  unfold noteOff
  split
  next => exact .inl rfl
  next a v hav =>
    split
    next => exact .inr (.inr ⟨a, v, (activeSlot_eq_some hav).1, rfl⟩)
    next => exact .inr (.inl rfl)

/-- R25: NOTE_OFF leaves the counters. -/
theorem counters_noteOff (note : Note) (s : State α) : counters (noteOff note s).voices = counters s.voices := by
  rcases noteOff_cases note s with h | h | ⟨a, v, hv, h⟩ <;> rw [h]
  · rfl
  · exact counters_set_of_cur_eq hv rfl


end Counters

section CommandCounters
variable {α : Type} [Field α] [LinearOrder α]

/-- Step 1 of NOTE_ON has no influence on the choice of step 2. -/
theorem selectVoice_map_markFading (note : Note) (vs : List (Voice α)) :
    selectVoice (vs.map (markFading note)) = selectVoice vs := by
  cases vs with
  | nil => rfl
  | cons v vs =>
    rw [List.map_cons, selectVoice, selectVoice, markFading_cur]
    exact selectFrom_map_of_cur_eq (markFading_cur note) ..

/-- R25, R185: an accepted NOTE_ON puts 0 in the chosen slot's counter alone. -/
theorem counters_noteOnVoices (par : Params α) (note : Note) (vel : α) (vs : List (Voice α)) :
    counters (noteOnVoices par note vel vs) = (counters vs).set (selectVoice vs) (some 0) := by
  rw [noteOnVoices, counters_set, freshVoice_cur, selectVoice_map_markFading,
    counters_map_of_cur_eq (markFading_cur note)]

/-- R25, R176: RENDER advances every counter that is set, saturating. -/
theorem counters_renderWith (N : Numerics α) (k : Kind) (n : Nat) (s : State α) :
    counters (renderWith N k n s).voices = (counters s.voices).map (Option.map fun c => satAdd s.par c n) := by
  simp [counters, renderLoop_voices]

end CommandCounters

/-- Settles O52: the counters after each command, read at the slot. -/
theorem counterAdvance : Obligations.CounterAdvance := by
  intro s t slot v hv
  have hcur : (counters s.voices)[slot]? = some v.cur := counters_getElem?_eq_some.mpr ⟨v, hv, rfl⟩
  refine ⟨fun note opd ht hopd => ?_, fun note ht => ?_, fun n ht => ?_, fun note opd ht hopd => ?_, fun ht => ?_⟩
  · obtain ⟨-, rfl⟩ := execNoteOn_eq_next.mp ht
    obtain ⟨vel, hvel⟩ := Option.isSome_iff_exists.mp hopd
    rw [noteOn_of_velocity hvel, ← counters_getElem?_eq_some, counters_noteOnVoices]
    have hlt : slot < (counters s.voices).length := (List.getElem?_eq_some_iff.mp hcur).1
    by_cases hslot : slot = selectVoice s.voices
    · rw [if_pos hslot, ← hslot, List.getElem?_set_self hlt]
    · rw [if_neg hslot, List.getElem?_set_ne (Ne.symm hslot), hcur]
  · obtain ⟨-, rfl⟩ := execNoteOff_eq_next.mp ht
    rw [← counters_getElem?_eq_some, counters_noteOff, hcur]
  · obtain ⟨k, -, rfl⟩ := execRender_eq_next.mp ht
    rw [← counters_getElem?_eq_some, counters_renderWith, List.getElem?_map, hcur]
    rfl
  · obtain ⟨-, rfl⟩ := execNoteOn_eq_next.mp ht
    rw [noteOn_refused hopd, refuseCommand_voices]
  · obtain ⟨-, rfl⟩ := illegalCommand_eq_next.mp ht
    rfl

end Sys2Proof.Machine

/-! ## What every instruction and every step keeps (R33, R40, R45, R61) -/

namespace Sys2Proof.Machine

/-- A word of flags with more flags set: none of those set is cleared, and only bits 0 to 2 change (R45). -/
def Raises (a b : Word) : Prop := a &&& b = a ∧ b &&& ~~~ 7#32 = a &&& ~~~ 7#32

theorem raises_refl (a : Word) : Raises a a := ⟨BitVec.and_self, rfl⟩

theorem Raises.trans {a b c : Word} (hab : Raises a b) (hbc : Raises b c) : Raises a c := by
  refine ⟨?_, hbc.2.trans hab.2⟩
  calc a &&& c = a &&& b &&& c := by rw [hab.1]
    _ = a &&& b := by rw [BitVec.and_assoc, hbc.1]
    _ = a := hab.1

/-- The three conditions have bits 0 to 2 (R45, R200). -/
theorem Condition.mask_low (c : Condition) : c.mask &&& ~~~ 7#32 = 0#32 := by
  cases c <;> decide

theorem raises_or_mask (a : Word) (c : Condition) : Raises a (a ||| c.mask) := by
  constructor
  · ext i hi
    simpa using Or.inl
  · have hand : (a ||| c.mask) &&& ~~~ 7#32 = a &&& ~~~ 7#32 ||| c.mask &&& ~~~ 7#32 := by
      ext i hi
      simp [Bool.and_or_distrib_right]
    rw [hand, c.mask_low, BitVec.or_zero]

/-- Counters of a file of slots and of a later one: no slot has come or gone, and none has fallen silent (R33). -/
def SoundsOn (cs ds : List (Option Nat)) : Prop :=
  ds.length = cs.length ∧ ∀ slot c : Nat, cs[slot]? = some (some c) → ∃ d : Nat, ds[slot]? = some (some d)

theorem soundsOn_refl (cs : List (Option Nat)) : SoundsOn cs cs := ⟨rfl, fun _ c h => ⟨c, h⟩⟩

theorem SoundsOn.trans {cs ds es : List (Option Nat)} (hcd : SoundsOn cs ds) (hde : SoundsOn ds es) :
    SoundsOn cs es := by
  refine ⟨hde.1.trans hcd.1, fun slot c h => ?_⟩
  obtain ⟨d, hd⟩ := hcd.2 slot c h
  exact hde.2 slot d hd

theorem soundsOn_set (cs : List (Option Nat)) (slot d : Nat) : SoundsOn cs (cs.set slot (some d)) := by
  refine ⟨List.length_set, fun j c h => ?_⟩
  by_cases hj : slot = j
  · obtain ⟨hlt, -⟩ := List.getElem?_eq_some_iff.mp h
    exact ⟨d, by rw [hj, List.getElem?_set_self hlt]⟩
  · exact ⟨c, by rw [List.getElem?_set_ne hj, h]⟩

theorem soundsOn_map (cs : List (Option Nat)) (f : Nat → Nat) : SoundsOn cs (cs.map (Option.map f)) :=
  ⟨List.length_map _, fun slot c h => ⟨f c, by rw [List.getElem?_map, h]; rfl⟩⟩

section Keeps
variable {α : Type}

/-- What every instruction and every step keeps of the block: what is read-only, the slots and their sounding, and
the flags that are set. -/
structure Keeps (s t : State α) : Prop where
  cfg : t.cfg = s.cfg
  table : t.table = s.table
  par : t.par = s.par
  sounding : SoundsOn (counters s.voices) (counters t.voices)
  status : Raises s.status t.status

theorem Keeps.refl (s : State α) : Keeps s s := ⟨rfl, rfl, rfl, soundsOn_refl _, raises_refl _⟩

theorem Keeps.trans {s t u : State α} (hst : Keeps s t) (htu : Keeps t u) : Keeps s u where
  cfg := htu.cfg.trans hst.cfg
  table := htu.table.trans hst.table
  par := htu.par.trans hst.par
  sounding := hst.sounding.trans htu.sounding
  status := hst.status.trans htu.status

theorem Keeps.setFlag {s t : State α} (h : Keeps s t) (c : Condition) : Keeps s (setFlag c t) :=
  { h with status := h.status.trans (raises_or_mask t.status c) }

/-- New contents of the slots, all sounding on. -/
theorem Keeps.withVoices {s t : State α} {vs : List (Voice α)} (h : Keeps s t)
    (hvs : SoundsOn (counters t.voices) (counters vs)) : Keeps s { t with voices := vs } :=
  { h with sounding := h.sounding.trans hvs }

theorem Keeps.setVoice {s t : State α} {slot : Nat} {v w : Voice α} (h : Keeps s t) (hv : t.voices[slot]? = some v)
    (hw : w.cur = v.cur) : Keeps s (t.setVoice slot w) :=
  h.withVoices (by rw [counters_set_of_cur_eq hv hw]; exact soundsOn_refl _)

/-! The unit latches are no part of what is kept. -/

theorem Keeps.setResult {s t : State α} (h : Keeps s t) (x : α) : Keeps s (t.setResult x) := { h with }

theorem Keeps.setPlan {s t : State α} (h : Keeps s t) (p : Plan α) : Keeps s (t.setPlan p) := { h with }

theorem Keeps.setWaveIssue {s t : State α} (h : Keeps s t) (b : Bool) : Keeps s (t.setWaveIssue b) := { h with }

theorem Keeps.noteOff (s : State α) (note : Note) : Keeps s (noteOff note s) := by
  rcases noteOff_cases note s with h | h | ⟨a, v, hv, h⟩ <;> rw [h]
  · exact .refl s
  · exact (Keeps.refl s).setFlag .repeatOff
  · exact (Keeps.refl s).setVoice hv rfl

end Keeps

section KeptByInstructions
variable {α : Type} [Field α] [LinearOrder α]

theorem voiceSample_cur (c : Ctx α) (i cur : Nat) (v : Voice α) : (voiceSample c i cur v).2.cur = v.cur :=
  voiceStep_cur ..

theorem Keeps.latchWords (s : State α) (rest : List Word) : Keeps s (latchWords rest s) where
  cfg := latchWords_cfg rest s
  table := latchWords_table rest s
  par := latchWords_par rest s
  sounding := by rw [latchWords_voices]; exact soundsOn_refl _
  status := by rw [latchWords_status]; exact raises_refl _

theorem Keeps.noteOn (s : State α) (note : Note) (opd : Word) : Keeps s (noteOn note opd s) := by
  cases hvel : (velocityOf opd : Option α) with
  | none => rw [noteOn_refused hvel]; exact (Keeps.refl s).setFlag .badOperand
  | some vel =>
    rw [noteOn_of_velocity hvel]
    exact (Keeps.refl s).withVoices (by rw [counters_noteOnVoices]; exact soundsOn_set ..)

theorem Keeps.renderWith (s : State α) (N : Numerics α) (k : Kind) (n : Nat) : Keeps s (renderWith N k n s) where
  cfg := rfl
  table := rfl
  par := rfl
  sounding := by rw [counters_renderWith]; exact soundsOn_map ..
  status := raises_refl _

/-- Every instruction keeps it: the commands as R25 says, and no unit operation writes a `CUR` or a flag. -/
theorem execOn_keeps {N : Numerics α} {i : Instr} {s t : State α} (h : execOn N i s = .next t) : Keeps s t := by
  cases i with
  | noteOn note opd => obtain ⟨-, rfl⟩ := runNoteOn_eq_next.mp h; exact .noteOn s note opd
  | noteOff note => obtain ⟨-, rfl⟩ := runNoteOff_eq_next.mp h; exact .noteOff s note
  | render count => obtain ⟨k, -, rfl⟩ := runRender_eq_next.mp h; exact .renderWith s N k count.toNat
  | oscSquare | oscSaw | oscTriangle | oscSine =>
    obtain ⟨-, -, rfl⟩ := runWave_eq_next.mp h
    exact (Keeps.refl s).setResult _
  | oscTable =>
    obtain ⟨-, h⟩ := runOscTable_eq_next.mp h
    obtain ⟨-, -, rfl⟩ := runWave_eq_next.mp h
    exact (Keeps.refl s).setResult _
  | oscStateless kind period offset =>
    obtain ⟨-, -, rfl⟩ := runOscStateless_eq_next.mp h
    exact (Keeps.refl s).setResult _
  | oscAcc slot kind period =>
    obtain ⟨-, -, v, hv, rfl⟩ := runOscAcc_eq_next.mp h
    exact ((Keeps.refl s).setVoice hv (oscAcc_cur ..)).setResult _
  | oscNoise seed k =>
    obtain ⟨-, -, rfl⟩ := runOscNoise_eq_next.mp h
    exact (Keeps.refl s).setResult _
  | envSample attack decay sustain release offset rel =>
    obtain ⟨-, -, rfl⟩ := runEnvSample_eq_next.mp h
    exact (Keeps.refl s).setResult _
  | lpfStep slot input cutoff sampleRate =>
    obtain ⟨-, -, v, hv, rfl⟩ := runLpfStep_eq_next.mp h
    exact ((Keeps.refl s).setVoice hv (lpfStep_cur ..)).setResult _
  | plan slot frame =>
    obtain ⟨-, -, -, -, -, -, -, rfl⟩ := runPlan_eq_next.mp h
    exact (Keeps.refl s).setPlan _
  | voiceSample slot frame =>
    obtain ⟨k, -, -, v, c, hv, -, rfl⟩ := runVoiceSample_eq_next.mp h
    have hplan := (Keeps.refl s).setPlan (makePlan (s.ctx N k) v (frameOffset s.par c frame))
    exact (hplan.setVoice hv (voiceSample_cur ..)).setResult _
  | mixFrame frame =>
    obtain ⟨k, -, -, rfl⟩ := runMixFrame_eq_next.mp h
    refine ((Keeps.refl s).withVoices ?_).setResult _
    rw [mixFrame_voices, counters_map_of_cur_eq (frameVoice_cur _ frame)]
    exact soundsOn_refl _

theorem stepOn_keeps {N : Numerics α} {s t : State α} (h : stepOn N s = .next t) : Keeps s t := by
  rcases stepOn_cases h with ⟨-, rfl⟩ | ⟨i, u, hf, hu⟩ | ⟨u, hf, -, rfl⟩
  · exact .refl t
  · rcases fetch_eq_run hf with ⟨k, -, rfl⟩ | ⟨rest, rfl, -⟩
    · exact ((Keeps.refl s).setWaveIssue false).trans (execOn_keeps hu)
    · exact (Keeps.latchWords s rest).trans (execOn_keeps hu)
  · obtain ⟨rest, rfl⟩ := fetch_eq_illegal hf
    exact (Keeps.latchWords s rest).setFlag .illegalCmd

end KeptByInstructions

theorem exec_keeps {i : Instr} {s t : State} (h : exec i s = .next t) : Keeps s t :=
  execOn_keeps ((execOn_freeNum i s).trans h)

theorem step_keeps {s t : State} (h : step s = .next t) : Keeps s t :=
  stepOn_keeps ((stepOn_freeNum s).trans h)

/-- Settles O50: a counter that is set stays set. -/
theorem soundingStaysSounding : Obligations.SoundingStaysSounding := by
  intro s t slot v ht hv hsounding
  have hkeeps : Keeps s t := by
    rcases ht with ⟨i, hi⟩ | hstep
    · exact exec_keeps hi
    · exact step_keeps hstep
  obtain ⟨c, hc⟩ := Option.isSome_iff_exists.mp hsounding
  obtain ⟨d, hd⟩ := hkeeps.sounding.2 slot c (counters_getElem?_eq_some.mpr ⟨v, hv, hc⟩)
  obtain ⟨w, hw, hwcur⟩ := counters_getElem?_eq_some.mp hd
  exact ⟨w, hw, by rw [hwcur]; rfl⟩

/-- Settles O51: of what a step keeps, the read-only state and the number of slots. -/
theorem configurationIsReadOnly : Obligations.ConfigurationIsReadOnly := by
  intro s t h
  have hkeeps := step_keeps h
  exact ⟨hkeeps.cfg, hkeeps.table, hkeeps.par, by simpa using hkeeps.sounding.1⟩

/-- Settles O53: of what a step keeps, the flags. -/
theorem statusSticky : Obligations.StatusSticky := fun _ _ h => (step_keeps h).status

/-! ## STATUS and the command latches are not read (R20, R46, R207) -/

section Blind
variable {α : Type}

/-- A meaning that reads neither STATUS nor the latches: with any contents there it does what it does with zeros,
and what it sets in STATUS is joined to what was there. -/
def LatchBlind (r : State α → Result α) : Prop :=
  ∀ (st c o : Word) (s : State α),
    r (relatch st c o s) = mapNext (fun t => relatch (st ||| t.status) c o t) (r (relatch 0#32 0#32 0#32 s))

@[simp] theorem relatch_voices (st c o : Word) (s : State α) : (relatch st c o s).voices = s.voices := rfl

/-- An update that commutes with a change of STATUS and the latches has no part in them. -/
theorem LatchBlind.of_commutes {g : State α → State α}
    (h : ∀ (st c o : Word) (s : State α), g (relatch st c o s) = relatch st c o (g s)) :
    LatchBlind fun s => .next (g s) := by
  intro st c o s
  have hzero : relatch (st ||| 0#32) c o (g s) = relatch st c o (g s) := by rw [BitVec.or_zero]
  change .next (g (relatch st c o s)) = Host.Outcome.next _
  rw [h, h]
  exact congrArg Host.Outcome.next hzero.symm

/-- A sticky flag is joined to whatever STATUS holds (R207). -/
theorem LatchBlind.setFlag (f : Condition) : LatchBlind fun s : State α => .next (setFlag f s) := by
  intro st c o s
  have hzero : relatch (st ||| (0#32 ||| f.mask)) c o s = relatch (st ||| f.mask) c o s := by rw [BitVec.zero_or]
  exact congrArg Host.Outcome.next hzero.symm

/-- A guard on the operands that does not look there either. -/
theorem LatchBlind.inDomain {ok : State α → Bool} {r : State α → Result α}
    (hok : ∀ (st c o : Word) (s : State α), ok (relatch st c o s) = ok s) (hr : LatchBlind r) :
    LatchBlind fun s => inDomain (ok s) (r s) := by
  intro st c o s
  simp only [hok, hr st c o s]
  cases ok s <;> rfl

theorem LatchBlind.withSlot {slot : Nat} {f : Voice α → State α → Result α} (hf : ∀ v, LatchBlind (f v)) :
    LatchBlind fun s => withSlot s slot fun v => f v s := by
  intro st c o s
  simp only [Machine.withSlot, relatch_voices]
  cases s.voices[slot]? with
  | none => rfl
  | some v => exact hf v st c o s

theorem LatchBlind.withSounding {slot : Nat} {f : Voice α → Nat → State α → Result α}
    (hf : ∀ v c, LatchBlind (f v c)) : LatchBlind fun s => withSounding s slot fun v c => f v c s := by
  refine .withSlot fun v => ?_
  cases v.cur with
  | none => exact fun _ _ _ _ => rfl
  | some c => exact hf v c

theorem noteOff_latchBlind (note : Note) : LatchBlind fun s : State α => .next (noteOff note s) := by
  intro st c o s
  simp only [noteOff, relatch_voices]
  split
  next => exact LatchBlind.of_commutes (g := id) (fun _ _ _ _ => rfl) st c o s
  next a v _ =>
    split
    next => exact LatchBlind.of_commutes (g := (·.setVoice a { v with rel := v.cur })) (fun _ _ _ _ => rfl) st c o s
    next => exact LatchBlind.setFlag .repeatOff st c o s

end Blind

section BlindMeanings
variable {α : Type} [Field α] [LinearOrder α]

@[simp] theorem relatch_kind? (st c o : Word) (s : State α) : (relatch st c o s).kind? = s.kind? := rfl

theorem LatchBlind.withConfig {f : Kind → State α → Result α} (hf : ∀ k, LatchBlind (f k)) :
    LatchBlind fun s => withConfig s fun k => f k s := by
  intro st c o s
  simp only [Machine.withConfig, relatch_kind?]
  cases s.kind? with
  | none => rfl
  | some k => exact hf k st c o s

theorem noteOn_latchBlind (note : Note) (opd : Word) : LatchBlind fun s : State α => .next (noteOn note opd s) := by
  cases hvel : (velocityOf opd : Option α) with
  | none => simp only [noteOn_refused hvel]; exact .setFlag .badOperand
  | some vel => simp only [noteOn_of_velocity hvel]; exact .of_commutes fun _ _ _ _ => rfl

theorem runWave_latchBlind (N : Numerics α) (k : Kind) : LatchBlind (runWave N k) :=
  .withConfig fun _ => .inDomain (fun _ _ _ _ => rfl) (.of_commutes fun _ _ _ _ => rfl)

theorem execOn_latchBlind (N : Numerics α) (i : Instr) : LatchBlind (execOn N i) := by
  cases i with
  | noteOn note opd => exact .withConfig fun _ => noteOn_latchBlind note opd
  | noteOff note => exact .withConfig fun _ => noteOff_latchBlind note
  | render count => exact .withConfig fun _ => .of_commutes fun _ _ _ _ => rfl
  | oscSquare => exact runWave_latchBlind N .square
  | oscSaw => exact runWave_latchBlind N .saw
  | oscTriangle => exact runWave_latchBlind N .triangle
  | oscSine => exact runWave_latchBlind N .sine
  | oscTable => exact .withConfig fun _ => .inDomain (fun _ _ _ _ => rfl) (runWave_latchBlind N .table)
  | oscStateless _ _ _ | oscNoise _ _ | envSample _ _ _ _ _ _ | mixFrame _ =>
    exact .withConfig fun _ => .inDomain (fun _ _ _ _ => rfl) (.of_commutes fun _ _ _ _ => rfl)
  | oscAcc _ _ _ | lpfStep _ _ _ _ =>
    exact .withConfig fun _ => .inDomain (fun _ _ _ _ => rfl) (.withSlot fun _ => .of_commutes fun _ _ _ _ => rfl)
  | plan _ _ | voiceSample _ _ =>
    exact .withConfig fun _ => .inDomain (fun _ _ _ _ => rfl)
      (.withSounding fun _ _ => .of_commutes fun _ _ _ _ => rfl)

end BlindMeanings

/-- Settles O54: no meaning reads STATUS or the latches. -/
theorem statusAndLatchesUnread : Obligations.StatusAndLatchesUnread := by
  intro i s st c o
  have h := execOn_latchBlind freeNum i st c o s
  rwa [execOn_freeNum, execOn_freeNum] at h

end Sys2Proof.Machine

namespace Sys2Proof.Machine

/-! ## The commands leave the rest of the block alone (R170, R185, R190) -/

section CommandFrames
variable {α : Type}

/-- No field but the slots, STATUS, `OUT` and the recorded count differs. -/
def OnlySlotsStatusOut (s t : State α) : Prop :=
  t = { s with voices := t.voices, status := t.status, out := t.out, outCount := t.outCount }

/-- No field but PHASE and LPF_LAST differs. -/
def Voice.OnlyPhaseLpf (v w : Voice α) : Prop := w = { v with phase := w.phase, lpfLast := w.lpfLast }

theorem Voice.OnlyPhaseLpf.trans {u v w : Voice α} (huv : u.OnlyPhaseLpf v) (hvw : v.OnlyPhaseLpf w) :
    u.OnlyPhaseLpf w :=
  Eq.trans hvw (by rw [huv])

theorem OnlySlotsStatusOut.fields {s t : State α} (h : OnlySlotsStatusOut s t) :
    t.par = s.par ∧ t.cfg = s.cfg ∧ t.table = s.table ∧ t.cmd = s.cmd ∧ t.opd = s.opd ∧ t.port = s.port ∧
      t.seq = s.seq := by
  rw [h]
  exact ⟨rfl, rfl, rfl, rfl, rfl, rfl, rfl⟩

theorem Voice.OnlyPhaseLpf.advance {v w : Voice α} (h : v.OnlyPhaseLpf w) (par : Params α) (n : Nat) :
    Machine.advance par n w =
      { v with cur := (Machine.advance par n w).cur, phase := w.phase, lpfLast := w.lpfLast } := by
  rw [h]
  rfl

theorem onlySlotsStatusOut_noteOff (note : Note) (s : State α) : OnlySlotsStatusOut s (noteOff note s) := by
  rcases noteOff_cases note s with h | h | ⟨_, _, -, h⟩ <;> rw [h] <;> rfl

theorem noteOff_out (note : Note) (s : State α) :
    (noteOff note s).out = s.out ∧ (noteOff note s).outCount = s.outCount := by
  rcases noteOff_cases note s with h | h | ⟨_, _, -, h⟩ <;> rw [h] <;> exact ⟨rfl, rfl⟩

variable [Field α] [LinearOrder α]

theorem onlySlotsStatusOut_noteOn (note : Note) (opd : Word) (s : State α) :
    OnlySlotsStatusOut s (noteOn note opd s) := by
  cases hvel : (velocityOf opd : Option α) with
  | none => rw [noteOn_refused hvel]; rfl
  | some vel => rw [noteOn_of_velocity hvel]; rfl

theorem noteOn_out (note : Note) (opd : Word) (s : State α) :
    (noteOn note opd s).out = s.out ∧ (noteOn note opd s).outCount = s.outCount := by
  cases hvel : (velocityOf opd : Option α) with
  | none => rw [noteOn_refused hvel]; exact ⟨rfl, rfl⟩
  | some vel => rw [noteOn_of_velocity hvel]; exact ⟨rfl, rfl⟩

theorem onlySlotsStatusOut_renderWith (N : Numerics α) (k : Kind) (n : Nat) (s : State α) :
    OnlySlotsStatusOut s (renderWith N k n s) := rfl

theorem frameVoice_onlyPhaseLpf (c : Ctx α) (i : Nat) (v : Voice α) : v.OnlyPhaseLpf (frameVoice c i v) := by
  unfold frameVoice
  split <;> rfl

/-- A slot's frames write its PHASE and LPF_LAST alone (R160). -/
theorem voiceRun_onlyPhaseLpf (c : Ctx α) (n i : Nat) (v : Voice α) : v.OnlyPhaseLpf (voiceRun c n i v).2 := by
  induction n generalizing i v with
  | zero => rfl
  | succ n ih => exact (frameVoice_onlyPhaseLpf c i v).trans (ih (i + 1) (frameVoice c i v))

/-- RENDER, slot by slot (R170, R171). -/
theorem renderWith_getElem? {N : Numerics α} {k : Kind} {n slot : Nat} {s : State α} {v : Voice α}
    (hv : s.voices[slot]? = some v) :
    (renderWith N k n s).voices[slot]? = some (advance s.par n (voiceRun (s.ctx N k) n 0 v).2) := by
  simp [renderLoop_voices, hv]

end CommandFrames

/-- Settles O44: the three commands write the slots, STATUS, `OUT` and the count alone, and of these each only its
own. -/
theorem commandFrames : Obligations.CommandFrames := by
  intro i s t hi ht
  have hlen : t.voices.length = s.voices.length := by simpa using (exec_keeps ht).sounding.1
  have rest (h : OnlySlotsStatusOut s t) : t.par = s.par ∧ t.cfg = s.cfg ∧ t.table = s.table ∧ t.cmd = s.cmd ∧
      t.opd = s.opd ∧ t.port = s.port ∧ t.seq = s.seq ∧ t.voices.length = s.voices.length := by
    obtain ⟨hpar, hcfg, htable, hcmd, hopd, hport, hseq⟩ := h.fields
    exact ⟨hpar, hcfg, htable, hcmd, hopd, hport, hseq, hlen⟩
  rcases hi with ⟨note, opd, rfl⟩ | ⟨note, rfl⟩ | ⟨count, rfl⟩
  · obtain ⟨-, rfl⟩ := execNoteOn_eq_next.mp ht
    obtain ⟨hout, hcount⟩ := noteOn_out note opd s
    exact ⟨rest (onlySlotsStatusOut_noteOn note opd s), fun _ => ⟨hcount, fun j => by rw [hout]⟩,
      fun n h => by cases h⟩
  · obtain ⟨-, rfl⟩ := execNoteOff_eq_next.mp ht
    obtain ⟨hout, hcount⟩ := noteOff_out note s
    exact ⟨rest (onlySlotsStatusOut_noteOff note s), fun _ => ⟨hcount, fun j => by rw [hout]⟩,
      fun n h => by cases h⟩
  · obtain ⟨k, -, rfl⟩ := execRender_eq_next.mp ht
    refine ⟨rest (onlySlotsStatusOut_renderWith ..), fun h => absurd rfl (h count), ?_⟩
    rintro n ⟨⟩
    refine ⟨rfl, fun j hj => renderLoop_read_outside _ _ 0 j _ _ (.inr (by omega)), fun j v hv => ?_⟩
    exact ⟨_, renderWith_getElem? hv, (voiceRun_onlyPhaseLpf ..).advance ..⟩

/-! ## What the host reads of a RENDER (R64) -/

section HostReads
variable {α : Type}

theorem hostReadOut_of_lt {i : Nat} {w : Word} {s : State α} (hi : i < s.outCount) (hw : s.out.read i = some w) :
    hostReadOut i s = .next w := by
  simp [hostReadOut, hi, hw]

theorem hostReadOut_of_le {i : Nat} {s : State α} (hi : s.outCount ≤ i) :
    hostReadOut i s = .fault .outNotReadable :=
  if_neg (Nat.not_lt.mpr hi)

theorem renderWith_read [Field α] [LinearOrder α] {N : Numerics α} {k : Kind} {n i : Nat} {s : State α} (hi : i < n) :
    (renderWith N k n s).out.read i =
      some (N.toF32 (s.voices.map fun v => ((voiceRun (s.ctx N k) n 0 v).1)[i]?.getD 0).sum) := by
  have hread := renderLoop_read (s.ctx N k) n 0 i s.voices s.out hi
  rwa [Nat.zero_add] at hread

end HostReads

/-- Settles O60: RENDER wrote the entries below its count, and the count is the host's window. -/
theorem hostReadsTheFrames : Obligations.HostReadsTheFrames := by
  intro count s t k hk ht i
  obtain ⟨k', hk', rfl⟩ := execRender_eq_next.mp ht
  obtain rfl : k' = k := Option.some.inj (hk'.symm.trans hk)
  split
  next hi => exact hostReadOut_of_lt hi (renderWith_read hi)
  next hi => exact hostReadOut_of_le (Nat.not_lt.mp hi)

end Sys2Proof.Machine

namespace Sys2Proof.Machine

/-! ## The finite binary32 numbers, in the order of their patterns (R63, R87) -/

section Binary32
variable {α : Type} [Field α]

/-- The value of the pattern `m` of a non-negative binary32. The subnormals and the numbers up to `2^-125` share the
unit `2^-149`; every further exponent doubles it. -/
def f32Value (m : Nat) : α :=
  ((m - (m / 8388608 - 1) * 8388608 : Nat) : α) * 2 ^ (((m / 8388608 - 1 : Nat) : Int) - 149)

/-- The pattern with the magnitude `m` and the sign bit `neg`. -/
def f32Word (neg : Bool) (m : Nat) : Word := BitVec.ofNat 32 (if neg then 0x80000000 + m else m)

/-- `k` units above the exponent field `q`; with `k = 2^24` the carry into the next exponent. -/
theorem f32Value_add [CharZero α] {q k : Nat} (hk : k ≤ 16777216) (hq : q = 0 ∨ 8388608 ≤ k) :
    f32Value (q * 8388608 + k) = (k : α) * 2 ^ ((q : Int) - 149) := by
  rcases hk.lt_or_eq with hlt | rfl
  · have hfield : (q * 8388608 + k) / 8388608 - 1 = q := by omega
    have hsig : q * 8388608 + k - q * 8388608 = k := by omega
    rw [f32Value, hfield, hsig]
  · have hfield : (q * 8388608 + 16777216) / 8388608 - 1 = q + 1 := by omega
    have hsig : q * 8388608 + 16777216 - (q + 1) * 8388608 = 8388608 := by omega
    have hexp : ((q + 1 : Nat) : Int) - 149 = (q : Int) - 149 + 1 := by omega
    rw [f32Value, hfield, hsig, hexp, zpow_add_one₀ two_ne_zero]
    push_cast
    ring

/-- Every pattern counts units of its exponent. -/
theorem exists_f32Units (m : Nat) : ∃ q k : Nat, m = q * 8388608 + k ∧ k < 16777216 ∧ (q = 0 ∨ 8388608 ≤ k) :=
  ⟨m / 8388608 - 1, m - (m / 8388608 - 1) * 8388608, by omega, by omega, by omega⟩

@[simp] theorem f32Value_zero : f32Value 0 = (0 : α) := by simp [f32Value]

theorem f32Value_strictMono [LinearOrder α] [IsStrictOrderedRing α] : StrictMono (f32Value : Nat → α) := by
  refine strictMono_nat_of_lt_succ fun m => ?_
  obtain ⟨q, k, rfl, hk, hq⟩ := exists_f32Units m
  rw [add_assoc, f32Value_add hk.le hq, f32Value_add hk (by omega)]
  exact mul_lt_mul_of_pos_right (by exact_mod_cast k.lt_succ_self) (by positivity)

theorem f32Value_nonneg [LinearOrder α] [IsStrictOrderedRing α] (m : Nat) : (0 : α) ≤ f32Value m := by
  rw [← f32Value_zero]
  exact f32Value_strictMono.monotone m.zero_le

theorem f32Value_max [CharZero α] : f32Value 0x7F7FFFFF = (f32Max : α) := by
  rw [show 0x7F7FFFFF = 253 * 8388608 + 16777215 from rfl, f32Value_add (by omega) (by omega), f32Max, pow2_eq_zpow]
  norm_num

theorem f32Max_nonneg [LinearOrder α] [IsStrictOrderedRing α] : (0 : α) ≤ f32Max := by
  rw [← f32Value_max]
  exact f32Value_nonneg _

/-- No binary32 lies strictly between `n` and `n + 1` units. -/
theorem f32Value_gap [LinearOrder α] [IsStrictOrderedRing α] {q n m : Nat} {x : α} (hn : n < 16777216)
    (hq : q = 0 ∨ 8388608 ≤ n) (hx : |x| = f32Value m) :
    x ≤ n * 2 ^ ((q : Int) - 149) ∨ ((n : α) + 1) * 2 ^ ((q : Int) - 149) ≤ x := by
  rcases Nat.lt_or_ge (q * 8388608 + n) m with hm | hm
  · have hle : ((n : α) + 1) * 2 ^ ((q : Int) - 149) ≤ |x| := by
      rw [hx, ← Nat.cast_succ, ← f32Value_add hn (by omega)]
      exact f32Value_strictMono.monotone hm
    rcases le_total 0 x with h | h
    · exact .inr (by rwa [abs_of_nonneg h] at hle)
    · exact .inl (h.trans (by positivity))
  · refine .inl ((le_abs_self x).trans ?_)
    rw [hx, ← f32Value_add hn.le hq]
    exact f32Value_strictMono.monotone hm

/-! ### Reading a pattern -/

theorem exists_f32Word (w : Word) : ∃ (neg : Bool) (m : Nat), m < 0x80000000 ∧ w = f32Word neg m := by
  refine ⟨decide (0x80000000 ≤ w.toNat), w.toNat % 0x80000000, by omega, BitVec.eq_of_toNat_eq ?_⟩
  rw [f32Word, BitVec.toNat_ofNat]
  split <;> simp_all <;> omega

theorem f32Word_toNat {neg : Bool} {m : Nat} (hm : m < 0x80000000) :
    (f32Word neg m).toNat = if neg then 0x80000000 + m else m := by
  rw [f32Word, BitVec.toNat_ofNat, Nat.mod_eq_of_lt]
  split <;> omega

theorem f32Word_eq_negZero_iff {neg : Bool} {m : Nat} (hm : m < 0x80000000) :
    f32Word neg m = 0x80000000#32 ↔ neg = true ∧ m = 0 := by
  rw [← BitVec.toNat_inj, f32Word_toNat hm]
  cases neg <;> simp
  omega

theorem f32Word_sign {neg : Bool} {m : Nat} (hm : m < 0x80000000) : (f32Word neg m).getLsbD 31 = neg := by
  rw [← BitVec.msb_eq_getLsbD_last, BitVec.msb_eq_decide, f32Word_toNat hm]
  cases neg <;> simp
  omega

theorem f32Word_getLsbD_zero {neg : Bool} {m : Nat} (hm : m % 2 = 0) : (f32Word neg m).getLsbD 0 = false := by
  rw [BitVec.getLsbD, f32Word, BitVec.toNat_ofNat, Nat.testBit_zero]
  split <;> simp <;> omega

theorem f32Word_exponent {neg : Bool} {m : Nat} (hm : m < 0x80000000) :
    ((f32Word neg m).extractLsb' 23 8).toNat = m / 8388608 := by
  rw [BitVec.extractLsb'_toNat, f32Word_toNat hm, Nat.shiftRight_eq_div_pow]
  cases neg <;> simp <;> omega

theorem f32Word_fraction {neg : Bool} {m : Nat} (hm : m < 0x80000000) :
    ((f32Word neg m).extractLsb' 0 23).toNat = m % 8388608 := by
  rw [BitVec.extractLsb'_toNat, f32Word_toNat hm, Nat.shiftRight_eq_div_pow]
  cases neg <;> simp
  omega

/-- R87, `e = 0`. -/
theorem f32Value_subnormal [CharZero α] {m : Nat} (hm : m / 8388608 = 0) :
    f32Value m = (pow2 (-126) * (((m % 8388608 : Nat) : α) / 8388608) : α) := by
  have hmod : m % 8388608 = m := by omega
  have hval := f32Value_add (α := α) (q := 0) (k := m) (by omega) (.inl rfl)
  rw [Nat.zero_mul, Nat.zero_add] at hval
  rw [hval, hmod, pow2_eq_zpow]
  norm_num
  ring

/-- R87, `0 < e`. -/
theorem f32Value_normal [CharZero α] {m : Nat} (hm : m / 8388608 ≠ 0) :
    f32Value m = (pow2 (((m / 8388608 : Nat) : Int) - 127) * (1 + ((m % 8388608 : Nat) : α) / 8388608) : α) := by
  obtain ⟨q, hq⟩ := Nat.exists_eq_succ_of_ne_zero hm
  have hm : m = q * 8388608 + (8388608 + m % 8388608) := by omega
  have hexp : ((q + 1 : Nat) : Int) - 127 = (q : Int) - 149 + 23 := by omega
  calc f32Value m = ((8388608 + m % 8388608 : Nat) : α) * 2 ^ ((q : Int) - 149) := by
        conv_lhs => rw [hm]
        exact f32Value_add (by omega) (by omega)
    _ = _ := by
        rw [hq, pow2_eq_zpow, hexp, zpow_add₀ two_ne_zero]
        push_cast
        ring

/-- R87: a pattern below that of the infinity stands for its value. -/
theorem f32Decode_f32Word [CharZero α] {neg : Bool} {m : Nat} (hm : m < 0x7F800000) :
    f32Decode (f32Word neg m) = .finite (if neg then -f32Value m else f32Value m : α) := by
  have hlt : m < 0x80000000 := by omega
  have hfinite : m / 8388608 ≠ 255 := by omega
  simp only [f32Decode, f32Word_sign hlt, f32Word_exponent hlt, f32Word_fraction hlt, if_neg hfinite]
  split
  next he => rw [f32Value_subnormal he]; cases neg <;> simp
  next he => rw [f32Value_normal he]; cases neg <;> simp

/-- Only those patterns stand for a number. -/
theorem f32Decode_eq_finite [CharZero α] {w : Word} {x : α} (h : f32Decode w = .finite x) :
    ∃ (neg : Bool) (m : Nat), m < 0x7F800000 ∧ w = f32Word neg m ∧ x = if neg then -f32Value m else f32Value m := by
  obtain ⟨neg, m, hm, rfl⟩ := exists_f32Word w
  by_cases hfinite : m < 0x7F800000
  · exact ⟨neg, m, hfinite, rfl, F32.finite.inj (h.symm.trans (f32Decode_f32Word hfinite))⟩
  · have he : m / 8388608 = 255 := by omega
    simp only [f32Decode, f32Word_exponent hm, he, if_true] at h
    split at h <;> cases h

/-- The magnitude of a binary32 is the value of a pattern, and stays one when the sign is dropped. -/
theorem abs_of_f32Decode_eq_finite [LinearOrder α] [IsStrictOrderedRing α] {w : Word} {x : α}
    (h : f32Decode w = .finite x) : ∃ m : Nat, |x| = f32Value m := by
  obtain ⟨neg, m, -, -, rfl⟩ := f32Decode_eq_finite h
  have hval : |(f32Value m : α)| = f32Value m := abs_of_nonneg (f32Value_nonneg m)
  exact ⟨m, by cases neg <;> simp [hval]⟩

/-! ### The exponent of a number -/

/-- The exponent of a number below `2^(k-125)`, counted from that of the subnormals. -/
theorem f32Exponent_cases [LinearOrder α] {a : α} {k : Nat} (ha : a < 2 ^ ((k : Int) - 125)) :
    ∃ q : Nat, f32Exponent a k = (q : Int) - 126 ∧ a < 2 ^ ((q : Int) - 125) ∧
      (q = 0 ∨ 2 ^ ((q : Int) - 126) ≤ a) := by
  induction k with
  | zero => exact ⟨0, rfl, ha, .inl rfl⟩
  | succ k ih =>
    rw [f32Exponent, pow2_eq_zpow]
    split
    next hle =>
      have hexp : ((k + 1 : Nat) : Int) - 126 = (k : Int) - 125 := by omega
      exact ⟨k + 1, hexp.symm, ha, .inr (by rwa [hexp])⟩
    next hlt => exact ih (not_le.mp hlt)

theorem f32Max_lt [LinearOrder α] [IsStrictOrderedRing α] : (f32Max : α) < 2 ^ (((253 : Nat) : Int) - 125) := by
  rw [f32Max, pow2_eq_zpow]
  norm_num

end Binary32

/-! ## Rounding (R63) -/

section Rounding
variable {α : Type} [Field α] [LinearOrder α] [FloorRing α]

/-- The integer below or the one above, whichever is nearer; at equal distance the even one. -/
theorem roundHalfEven_cases (y : α) :
    (roundHalfEven y = ⌊y⌋ ∧ y - ⌊y⌋ ≤ 1 / 2 ∧ (y - ⌊y⌋ = 1 / 2 → roundHalfEven y % 2 = 0)) ∨
    (roundHalfEven y = ⌊y⌋ + 1 ∧ 1 / 2 ≤ y - ⌊y⌋ ∧ (y - ⌊y⌋ = 1 / 2 → roundHalfEven y % 2 = 0)) := by
  unfold roundHalfEven
  split
  next h => exact .inl ⟨rfl, h.le, fun he => absurd he h.ne⟩
  next h =>
    split
    next h' => exact .inr ⟨rfl, h'.le, fun he => absurd he h'.ne'⟩
    next h' =>
      split
      next heven => exact .inl ⟨rfl, not_lt.mp h', fun _ => heven⟩
      next hodd => exact .inr ⟨rfl, not_lt.mp h, fun _ => by omega⟩

theorem f32Magnitude_of_max_lt {a : α} (ha : f32Max < a) : f32Magnitude a = 0x7F800000 := if_pos ha

theorem toF32_of_nonneg {v : α} (hv : 0 ≤ v) : toF32 v = f32Word false (f32Magnitude v) := by
  simp [toF32, f32Word, not_lt.mpr hv]

theorem toF32_of_neg {v : α} (hv : v < 0) : toF32 v = f32Word true (f32Magnitude (-v)) := by
  simp [toF32, f32Word, hv]

variable [IsStrictOrderedRing α]

/-- No number outside the gap between the neighbouring integers is nearer, and as near only in a tie. -/
theorem roundHalfEven_nearest {y x : α} (hx : x ≤ ⌊y⌋ ∨ (⌊y⌋ : α) + 1 ≤ x) :
    |y - roundHalfEven y| ≤ |y - x| ∧
      (|y - roundHalfEven y| = |y - x| → x ≠ roundHalfEven y → roundHalfEven y % 2 = 0) := by
  have hfloor : (⌊y⌋ : α) ≤ y := Int.floor_le y
  have hceil : y < ⌊y⌋ + 1 := Int.lt_floor_add_one y
  have hdist : |y - x| = y - x ∧ x ≤ ⌊y⌋ ∨ |y - x| = x - y ∧ (⌊y⌋ : α) + 1 ≤ x := by
    rcases hx with h | h
    · exact .inl ⟨abs_of_nonneg (by linarith), h⟩
    · exact .inr ⟨by rw [abs_sub_comm]; exact abs_of_nonneg (by linarith), h⟩
  rcases roundHalfEven_cases y with ⟨hr, hhalf, htie⟩ | ⟨hr, hhalf, htie⟩
  · have hround : |y - roundHalfEven y| = y - ⌊y⌋ := by rw [hr]; exact abs_of_nonneg (by linarith)
    rw [hround]
    rcases hdist with ⟨hd, hle⟩ | ⟨hd, hle⟩ <;> rw [hd]
    · exact ⟨by linarith, fun he hne => absurd (by rw [hr]; linarith) hne⟩
    · exact ⟨by linarith, fun he _ => htie (by linarith)⟩
  · have hround : |y - roundHalfEven y| = ⌊y⌋ + 1 - y := by
      rw [hr, Int.cast_add, Int.cast_one, abs_sub_comm]
      exact abs_of_nonneg (by linarith)
    rw [hround]
    rcases hdist with ⟨hd, hle⟩ | ⟨hd, hle⟩ <;> rw [hd]
    · exact ⟨by linarith, fun he _ => htie (by linarith)⟩
    · exact ⟨by linarith, fun he hne => absurd (by rw [hr]; push_cast; linarith) hne⟩

/-- The significand `y` and the exponent field `q` that `f32Magnitude` rounds at. -/
theorem f32Magnitude_of_le_max {a : α} (ha : 0 ≤ a) (hmax : a ≤ f32Max) :
    ∃ (q : Nat) (y : α), a = y * 2 ^ ((q : Int) - 149) ∧ 0 ≤ y ∧ y < 16777216 ∧ (q = 0 ∨ 8388608 ≤ y) ∧
      f32Magnitude a = q * 8388608 + (roundHalfEven y).toNat := by
  obtain ⟨q, he, hlt, hle⟩ := f32Exponent_cases (lt_of_le_of_lt hmax f32Max_lt)
  have hunit : (0 : α) < 2 ^ ((q : Int) - 149) := by positivity
  have hhigh : (2 : α) ^ ((q : Int) - 125) = 16777216 * 2 ^ ((q : Int) - 149) := by
    rw [show (q : Int) - 125 = 24 + (q - 149) by omega, zpow_add₀ two_ne_zero]
    norm_num
  have hlow : (2 : α) ^ ((q : Int) - 126) = 8388608 * 2 ^ ((q : Int) - 149) := by
    rw [show (q : Int) - 126 = 23 + (q - 149) by omega, zpow_add₀ two_ne_zero]
    norm_num
  refine ⟨q, a / 2 ^ ((q : Int) - 149), (div_mul_cancel₀ a hunit.ne').symm, div_nonneg ha hunit.le, ?_, ?_, ?_⟩
  · rwa [div_lt_iff₀ hunit, ← hhigh]
  · rwa [le_div_iff₀ hunit, ← hlow]
  · have hfield : ((q : Int) - 126 + 126).toNat = q := by omega
    have hexp : (q : Int) - 126 - 23 = q - 149 := by omega
    rw [f32Magnitude, if_neg (not_lt.mpr hmax), he, pow2_eq_zpow, hfield, hexp]

/-- In units of its exponent `a` is `y`, at least `n` and below `n + 1`, and is rounded to `r` of them. -/
theorem f32Magnitude_units {a : α} (ha : 0 ≤ a) (hmax : a ≤ f32Max) :
    ∃ (q n r : Nat) (y : α), a = y * 2 ^ ((q : Int) - 149) ∧ ⌊y⌋ = n ∧ n < 16777216 ∧ (q = 0 ∨ 8388608 ≤ n) ∧
      roundHalfEven y = r ∧ f32Value (f32Magnitude a) = (r : α) * 2 ^ ((q : Int) - 149) ∧
      f32Magnitude a % 2 = r % 2 := by
  obtain ⟨q, y, hay, hy, hylt, hq, hmag⟩ := f32Magnitude_of_le_max ha hmax
  obtain ⟨n, hn⟩ := Int.eq_ofNat_of_zero_le (Int.floor_nonneg.mpr hy)
  have hnlt : n < 16777216 := by
    have : ⌊y⌋ < 16777216 := Int.floor_lt.mpr (by exact_mod_cast hylt)
    omega
  have hqn : q = 0 ∨ 8388608 ≤ n := hq.imp_right fun h => by
    have : (8388608 : Int) ≤ ⌊y⌋ := Int.le_floor.mpr (by exact_mod_cast h)
    omega
  obtain ⟨r, hr, hnr, hrn⟩ : ∃ r : Nat, roundHalfEven y = r ∧ n ≤ r ∧ r ≤ n + 1 := by
    rcases roundHalfEven_cases y with ⟨h, -⟩ | ⟨h, -⟩
    · exact ⟨n, h.trans hn, le_rfl, n.le_succ⟩
    · exact ⟨n + 1, by rw [h, hn]; rfl, n.le_succ, le_rfl⟩
  rw [hr, Int.toNat_natCast] at hmag
  refine ⟨q, n, r, y, hay, hn, hnlt, hqn, hr, ?_, by omega⟩
  rw [hmag, f32Value_add (by omega) (by omega)]

/-- R63 for a non-negative number, against a binary32 of either sign. -/
theorem f32Magnitude_nearest {a x : α} {m : Nat} (ha : 0 ≤ a) (hmax : a ≤ f32Max) (hx : |x| = f32Value m) :
    |a - f32Value (f32Magnitude a)| ≤ |a - x| ∧
      (|a - f32Value (f32Magnitude a)| = |a - x| → x ≠ f32Value (f32Magnitude a) → f32Magnitude a % 2 = 0) := by
  obtain ⟨q, n, r, y, hay, hn, hnlt, hq, hr, hval, hparity⟩ := f32Magnitude_units ha hmax
  have hunit : (0 : α) < 2 ^ ((q : Int) - 149) := by positivity
  obtain ⟨z, rfl⟩ : ∃ z, x = z * 2 ^ ((q : Int) - 149) := ⟨_, (div_mul_cancel₀ x hunit.ne').symm⟩
  have hz : z ≤ ⌊y⌋ ∨ (⌊y⌋ : α) + 1 ≤ z := by
    rw [hn, Int.cast_natCast]
    exact (f32Value_gap hnlt hq hx).imp (le_of_mul_le_mul_right · hunit) (le_of_mul_le_mul_right · hunit)
  obtain ⟨hle, htie⟩ := roundHalfEven_nearest hz
  rw [hr, Int.cast_natCast] at hle htie
  have hdist (t : α) : |a - t * 2 ^ ((q : Int) - 149)| = |y - t| * 2 ^ ((q : Int) - 149) := by
    rw [hay, ← sub_mul, abs_mul, abs_of_pos hunit]
  rw [hval, hdist, hdist]
  refine ⟨mul_le_mul_of_nonneg_right hle hunit.le, fun he hne => ?_⟩
  have heven := htie (mul_right_cancel₀ hunit.ne' he) fun h => hne (by rw [h])
  omega

/-- A number that is not beyond the largest finite binary32 rounds to a finite one. -/
theorem f32Magnitude_lt {a : α} (ha : 0 ≤ a) (hmax : a ≤ f32Max) : f32Magnitude a < 0x7F800000 := by
  have habs : |(f32Max : α)| = f32Value 0x7F7FFFFF := by rw [f32Value_max, abs_of_nonneg (ha.trans hmax)]
  have hnear := (f32Magnitude_nearest ha hmax habs).1
  have hle : f32Value (f32Magnitude a) ≤ (f32Value 0x7F7FFFFF : α) := by
    rw [abs_sub_comm a f32Max, abs_of_nonneg (sub_nonneg.mpr hmax)] at hnear
    rw [f32Value_max]
    linarith [neg_abs_le (a - f32Value (f32Magnitude a))]
  exact Nat.lt_succ_of_le (f32Value_strictMono.le_iff_le.mp hle)

/-- The value of a finite pattern rounds to that pattern. -/
theorem f32Magnitude_f32Value {m : Nat} (hm : m < 0x7F800000) : f32Magnitude (f32Value m : α) = m := by
  have hmax : f32Value m ≤ (f32Max : α) := by
    rw [← f32Value_max]
    exact f32Value_strictMono.monotone (Nat.le_of_lt_succ hm)
  have hnear := (f32Magnitude_nearest (f32Value_nonneg m) hmax (abs_of_nonneg (f32Value_nonneg m))).1
  rw [sub_self, abs_zero] at hnear
  exact (f32Value_strictMono.injective (sub_eq_zero.mp (abs_nonpos_iff.mp hnear))).symm

theorem toF32_f32Value {m : Nat} (hm : m < 0x7F800000) : toF32 (f32Value m : α) = f32Word false m := by
  rw [toF32_of_nonneg (f32Value_nonneg m), f32Magnitude_f32Value hm]

theorem toF32_neg_f32Value {m : Nat} (hpos : 0 < m) (hm : m < 0x7F800000) :
    toF32 (-f32Value m : α) = f32Word true m := by
  have hval : (0 : α) < f32Value m := by simpa using f32Value_strictMono (α := α) hpos
  rw [toF32_of_neg (neg_lt_zero.mpr hval), neg_neg, f32Magnitude_f32Value hm]

end Rounding

/-- Settles O7. Below zero, the statement is that of `-v` and `-x`. -/
theorem toF32IsNearest : Obligations.ToF32IsNearest := by
  refine ⟨fun v hv => ?_, fun v hv => ?_, fun v hv => ?_⟩
  · rcases le_or_gt 0 v with hsign | hsign
    · rw [abs_of_nonneg hsign] at hv
      rw [toF32_of_nonneg hsign]
      refine ⟨_, f32Decode_f32Word (f32Magnitude_lt hsign hv), fun w x hx => ?_⟩
      obtain ⟨m, hm⟩ := abs_of_f32Decode_eq_finite hx
      obtain ⟨hle, htie⟩ := f32Magnitude_nearest hsign hv hm
      exact ⟨hle, fun he hne => f32Word_getLsbD_zero (htie he hne)⟩
    · rw [abs_of_neg hsign] at hv
      have hpos : 0 ≤ -v := by linarith
      rw [toF32_of_neg hsign]
      refine ⟨_, f32Decode_f32Word (f32Magnitude_lt hpos hv), fun w x hx => ?_⟩
      obtain ⟨m, hm⟩ := abs_of_f32Decode_eq_finite hx
      obtain ⟨hle, htie⟩ := f32Magnitude_nearest hpos hv ((abs_neg x).trans hm)
      have hdist (t : ℚ) : |-v - t| = |v - -t| := by rw [← abs_neg]; congr 1; ring
      rw [hdist, hdist, neg_neg] at hle htie
      exact ⟨hle, fun he hne => f32Word_getLsbD_zero (htie he fun h => hne (neg_eq_iff_eq_neg.mp h))⟩
  · rw [toF32_of_nonneg (f32Max_nonneg.trans hv.le), f32Magnitude_of_max_lt hv]
    rfl
  · have hmax : f32Max < -v := lt_neg_of_lt_neg hv
    rw [toF32_of_neg (neg_pos.mp (f32Max_nonneg.trans_lt hmax)), f32Magnitude_of_max_lt hmax]
    rfl

/-- Settles O6: the value determines the pattern, but for the sign of zero. -/
theorem toF32FixesBinary32 : Obligations.ToF32FixesBinary32 := by
  intro w v hw
  obtain ⟨neg, m, hm, rfl, rfl⟩ := f32Decode_eq_finite hw
  have hnegZero : f32Word neg m = 0x80000000#32 ↔ neg = true ∧ m = 0 := f32Word_eq_negZero_iff (by omega)
  simp only [hnegZero]
  cases neg with
  | false => simpa using toF32_f32Value hm
  | true =>
    rcases Nat.eq_zero_or_pos m with rfl | hpos
    · simpa [f32Word] using toF32_f32Value (α := ℚ) hm
    · simpa [hpos.ne'] using toF32_neg_f32Value hpos hm

end Sys2Proof.Machine

namespace Sys2Proof

/-! ## The bit fields of a command word, as numbers (R80, R81) -/

theorem opcodeOf_toNat (w : Word) : (opcodeOf w).toNat = w.toNat / 0x1000000 := by
  rw [opcodeOf, BitVec.extractLsb'_toNat, Nat.shiftRight_eq_div_pow]
  omega

theorem opcodeOf_eq_iff {w : Word} {opc : BitVec 8} : opcodeOf w = opc ↔ w.toNat / 0x1000000 = opc.toNat := by
  rw [← BitVec.toNat_inj, opcodeOf_toNat]

theorem zeroOf_eq_zero_iff {w : Word} : zeroOf w = 0#17 ↔ w.toNat % 0x1000000 < 128 := by
  rw [← BitVec.toNat_inj, zeroOf, BitVec.extractLsb'_toNat, Nat.shiftRight_eq_div_pow, BitVec.toNat_ofNat]
  omega

theorem noteOf_eq_ofNat (w : Word) : noteOf w = BitVec.ofNat 7 w.toNat := by
  simp [noteOf, BitVec.extractLsb']

theorem countOf_eq_ofNat (w : Word) : countOf w = BitVec.ofNat 24 w.toNat := by
  simp [countOf, BitVec.extractLsb']

theorem formatN_toNat (opc : BitVec 8) (note : Note) :
    (formatN opc note).toNat = opc.toNat * 0x1000000 + note.toNat := by
  simp only [formatN, BitVec.toNat_append, BitVec.toNat_ofNat, Nat.zero_mod, Nat.or_zero]
  rw [← Nat.shiftLeft_add_eq_or_of_lt note.isLt, Nat.shiftLeft_eq, Nat.shiftLeft_eq, Nat.mul_assoc]

theorem formatR_toNat (opc : BitVec 8) (count : Count) :
    (formatR opc count).toNat = opc.toNat * 0x1000000 + count.toNat := by
  simp only [formatR, BitVec.toNat_append]
  rw [← Nat.shiftLeft_add_eq_or_of_lt count.isLt, Nat.shiftLeft_eq]

/-! ### Reading the fields of a formatted word, and formatting the fields of a word -/

@[simp] theorem opcodeOf_formatN (opc : BitVec 8) (note : Note) : opcodeOf (formatN opc note) = opc := by
  have := note.isLt
  rw [opcodeOf_eq_iff, formatN_toNat]
  omega

@[simp] theorem zeroOf_formatN (opc : BitVec 8) (note : Note) : zeroOf (formatN opc note) = 0#17 := by
  have := note.isLt
  rw [zeroOf_eq_zero_iff, formatN_toNat]
  omega

@[simp] theorem noteOf_formatN (opc : BitVec 8) (note : Note) : noteOf (formatN opc note) = note := by
  have := note.isLt
  rw [noteOf_eq_ofNat, formatN_toNat, ← BitVec.toNat_inj, BitVec.toNat_ofNat]
  omega

@[simp] theorem opcodeOf_formatR (opc : BitVec 8) (count : Count) : opcodeOf (formatR opc count) = opc := by
  have := count.isLt
  rw [opcodeOf_eq_iff, formatR_toNat]
  omega

@[simp] theorem countOf_formatR (opc : BitVec 8) (count : Count) : countOf (formatR opc count) = count := by
  have := count.isLt
  rw [countOf_eq_ofNat, formatR_toNat, ← BitVec.toNat_inj, BitVec.toNat_ofNat]
  omega

theorem formatN_fields {w : Word} (h : zeroOf w = 0#17) : formatN (opcodeOf w) (noteOf w) = w := by
  rw [zeroOf_eq_zero_iff] at h
  rw [← BitVec.toNat_inj, formatN_toNat, opcodeOf_toNat, noteOf_eq_ofNat, BitVec.toNat_ofNat]
  omega

theorem formatR_fields (w : Word) : formatR (opcodeOf w) (countOf w) = w := by
  rw [← BitVec.toNat_inj, formatR_toNat, opcodeOf_toNat, countOf_eq_ofNat, BitVec.toNat_ofNat]
  omega

/-! ## The decoder, one equation per opcode (R82, R88, R92) -/

section Decoder
variable {w : Word}

theorem decode_of_noteOn (h : opcodeOf w = 0x01#8) (opd : Word) (rest : List Word) :
    decode (w :: opd :: rest) =
      if zeroOf w = 0#17 then .command (.noteOn (noteOf w) opd) rest else .illegal .reservedBits rest := by
  simp [decode, h]

theorem decode_of_noteOn_lone (h : opcodeOf w = 0x01#8) : decode [w] = .incomplete := by
  simp [decode, h]

theorem decode_of_noteOff (h : opcodeOf w = 0x02#8) (ws : List Word) :
    decode (w :: ws) =
      if zeroOf w = 0#17 then .command (.noteOff (noteOf w)) ws else .illegal .reservedBits ws := by
  simp [decode, h]

theorem decode_of_render (h : opcodeOf w = 0x03#8) (ws : List Word) :
    decode (w :: ws) = .command (.render (countOf w)) ws := by
  simp [decode, h]

theorem decode_of_unassigned (h₁ : opcodeOf w ≠ 0x01#8) (h₂ : opcodeOf w ≠ 0x02#8) (h₃ : opcodeOf w ≠ 0x03#8)
    (ws : List Word) : decode (w :: ws) = .illegal .unassignedOpcode ws := by
  simp [decode, h₁, h₂, h₃]

theorem decode_of_unassigned_range (h : w.toNat < 0x01000000 ∨ 0x04000000 ≤ w.toNat) (ws : List Word) :
    decode (w :: ws) = .illegal .unassignedOpcode ws := by
  have hne (opc : BitVec 8) (ho : opc.toNat = 1 ∨ opc.toNat = 2 ∨ opc.toNat = 3) : opcodeOf w ≠ opc :=
    opcodeOf_eq_iff.not.mpr (by omega)
  exact decode_of_unassigned (hne _ (.inl rfl)) (hne _ (.inr (.inl rfl))) (hne _ (.inr (.inr rfl))) ws

end Decoder

/-- The first word's fields are those it was formatted from (R83 to R85). -/
theorem decode_encode_append {i : Instr} {pre : List Word} (h : encode i = .port pre) (rest : List Word) :
    decode (pre ++ rest) = .command i rest := by
  cases i with
  | noteOn note opd =>
    obtain rfl := Encoding.port.inj h
    simp [decode_of_noteOn]
  | noteOff note =>
    obtain rfl := Encoding.port.inj h
    simp [decode_of_noteOff]
  | render count =>
    obtain rfl := Encoding.port.inj h
    simp [decode_of_render]
  | _ => cases h

/-- The words a command was decoded from are its encoding: its fields, formatted again, are the first word. -/
theorem encode_of_decode {ws rest : List Word} {i : Instr} (h : decode ws = .command i rest) :
    ∃ pre, encode i = .port pre ∧ ws = pre ++ rest := by
  cases ws with
  | nil => cases h
  | cons w ws =>
    by_cases h₁ : opcodeOf w = 0x01#8
    · cases ws with
      | nil => rw [decode_of_noteOn_lone h₁] at h; cases h
      | cons opd ws =>
        rw [decode_of_noteOn h₁] at h
        split at h <;> cases h
        next hz => exact ⟨_, rfl, by rw [← h₁, formatN_fields hz]; rfl⟩
    · by_cases h₂ : opcodeOf w = 0x02#8
      · rw [decode_of_noteOff h₂] at h
        split at h <;> cases h
        next hz => exact ⟨_, rfl, by rw [← h₂, formatN_fields hz]; rfl⟩
      · by_cases h₃ : opcodeOf w = 0x03#8
        · rw [decode_of_render h₃] at h
          cases h
          exact ⟨_, rfl, by rw [← h₃, formatR_fields]; rfl⟩
        · rw [decode_of_unassigned h₁ h₂ h₃] at h
          cases h

/-! ## The kind tags (R90) -/

theorem decodeKind_kindTag (k : Kind) : decodeKind ((kindTag k).setWidth 32) = some k := by
  cases k <;> rfl

/-- The instructions with a kind tag are the waveforms. -/
theorem encode_eq_tag {i : Instr} {t : BitVec 3} (h : encode i = .tag t) : ∃ k, i = kindInstr k ∧ t = kindTag k := by
  cases i with
  | oscSquare => exact ⟨.square, rfl, (Encoding.tag.inj h).symm⟩
  | oscSaw => exact ⟨.saw, rfl, (Encoding.tag.inj h).symm⟩
  | oscTriangle => exact ⟨.triangle, rfl, (Encoding.tag.inj h).symm⟩
  | oscSine => exact ⟨.sine, rfl, (Encoding.tag.inj h).symm⟩
  | oscTable => exact ⟨.table, rfl, (Encoding.tag.inj h).symm⟩
  | _ => cases h

/-! ## The statements of 30_encoding.md -/

/-- Settles O2: on the port by the fields of the formatted word, in the configuration by the tag. -/
theorem decodeOfEncode : Obligations.DecodeOfEncode := by
  refine fun i rest => ⟨fun ws h => decode_encode_append h rest, fun t h => ?_⟩
  obtain ⟨k, rfl, rfl⟩ := encode_eq_tag h
  rw [decodeKind_kindTag, Option.map_some]

/-- Settles O3, opcode by opcode. -/
theorem encodeOfDecode : Obligations.EncodeOfDecode := fun _ _ _ h => encode_of_decode h

/-- Settles O4: the range of the first word fixes its opcode and whether its reserved bits are zero. -/
theorem firstWordDecidesCommand : Obligations.FirstWordDecidesCommand := by
  intro w ws
  rw [← noteOf_eq_ofNat, ← countOf_eq_ofNat]
  refine ⟨fun ⟨hlo, hhi⟩ => ?_, fun ⟨hlo, hhi⟩ => ?_, ?_, ?_⟩
  · have h₂ : opcodeOf w = 0x02#8 := opcodeOf_eq_iff.mpr (by bv_omega)
    rw [decode_of_noteOff h₂, if_pos (zeroOf_eq_zero_iff.mpr (by omega))]
  · have h₃ : opcodeOf w = 0x03#8 := opcodeOf_eq_iff.mpr (by bv_omega)
    rw [decode_of_render h₃]
  · rintro (hhi | ⟨hlo, hhi⟩ | hlo)
    · exact ⟨_, decode_of_unassigned_range (.inl hhi) ws⟩
    · have h₂ : opcodeOf w = 0x02#8 := opcodeOf_eq_iff.mpr (by bv_omega)
      rw [decode_of_noteOff h₂, if_neg (zeroOf_eq_zero_iff.not.mpr (by omega))]
      exact ⟨_, rfl⟩
    · exact ⟨_, decode_of_unassigned_range (.inr hlo) ws⟩
  · rintro opd rest rfl
    refine ⟨fun ⟨hlo, hhi⟩ => ?_, fun ⟨hlo, hhi⟩ => ?_⟩
    · have h₁ : opcodeOf w = 0x01#8 := opcodeOf_eq_iff.mpr (by bv_omega)
      rw [decode_of_noteOn h₁, if_pos (zeroOf_eq_zero_iff.mpr (by omega))]
    · have h₁ : opcodeOf w = 0x01#8 := opcodeOf_eq_iff.mpr (by bv_omega)
      rw [decode_of_noteOn h₁, if_neg (zeroOf_eq_zero_iff.not.mpr (by omega))]
      exact ⟨_, rfl⟩

/-- Settles O1: the decoder evaluated on the words of the vectors. -/
theorem knownWordsDecode : Obligations.KnownWordsDecode := by
  unfold Obligations.KnownWordsDecode
  decide

end Sys2Proof

namespace Sys2Proof.Machine

/-! ## The step runs what the port or the waveform issue names (R20, R82, R90) -/

section Latches
variable {α : Type} {s : State α}

theorem latchWords_of_one {w : Word} {ws : List Word} (hp : s.port = w :: ws) (hl : commandLength w = 1)
    (rest : List Word) : latchWords rest s = { s with cmd := w, port := rest } := by
  simp [latchWords, hp, hl]

theorem latchWords_of_two {w opd : Word} {ws : List Word} (hp : s.port = w :: opd :: ws) (hl : commandLength w = 2)
    (rest : List Word) : latchWords rest s = { s with cmd := w, opd := opd, port := rest } := by
  simp [latchWords, hp, hl]

end Latches

section FetchOf
variable {α : Type} [Zero α] [One α] [Add α] [Sub α] [Neg α] [Mul α] [Div α] [NatCast α] [IntCast α]
  [LT α] [LE α] [DecidableLT α] [DecidableLE α] [Max α] {s : State α}

theorem fetch_of_command {i : Instr} {rest : List Word} (hc : s.configOk = true) (hw : s.seq.waveIssue = false)
    (hd : decode s.port = .command i rest) : fetch s = .run i (latchWords rest s) := by
  obtain ⟨k, hk⟩ := kind?_of_configOk hc
  simp [fetch, hk, hw, hd]

theorem fetch_of_waveIssue {k : Kind} (hc : s.configOk = true) (hw : s.seq.waveIssue = true)
    (hk : decodeKind s.cfg.oscKind = some k) : fetch s = .run (kindInstr k) (s.setWaveIssue false) := by
  simp [fetch, kind?_eq_some.mpr ⟨hc, hk⟩, hw]

end FetchOf

theorem step_of_fetch_run {i : Instr} {s t : State} (h : fetch s = .run i t) : step s = exec i t := by
  simp [step, h]

/-- Settles O56: the fetch finds the command, and the length of the command says which latches it fills. -/
theorem stepRunsDecoded : Obligations.StepRunsDecoded := by
  refine fun s hc => ⟨fun w rest i hw hp hl hd => ?_, fun w opd rest i hw hp hl hd => ?_, fun k hw hk => ?_⟩
  · rw [step_of_fetch_run (fetch_of_command hc hw hd), latchWords_of_one hp hl]
  · rw [step_of_fetch_run (fetch_of_command hc hw hd), latchWords_of_two hp hl]
  · exact step_of_fetch_run (fetch_of_waveIssue hc hw hk)

end Sys2Proof.Machine

namespace Sys2Proof.Machine

/-! ## Interpolation between the values at the integers

OSC.TABLE, read at `p * TABLE_LEN`, joins the entries of the table repeated over the integers by straight lines
(R108), and OSC.TRIANGLE does the same with the entries 1 and -1 (R104). What the rules say of both waveforms are
facts about such a function. -/

section Interpolation
variable {α : Type} [Field α] [LinearOrder α] [FloorRing α]

/-- The values `a` at the integers, joined by straight lines. -/
def joined (a : Int → α) (y : α) : α := a ⌊y⌋ * (1 - Int.fract y) + a (⌊y⌋ + 1) * Int.fract y

theorem joined_of_floor (a : Int → α) {y : α} {n : Int} (hn : ⌊y⌋ = n) :
    joined a y = a n * (1 - (y - n)) + a (n + 1) * (y - n) := by
  rw [joined, Int.fract, hn]

variable [IsStrictOrderedRing α] {a : Int → α}

theorem joined_mem {lo hi : α} (ha : ∀ n, lo ≤ a n ∧ a n ≤ hi) (y : α) : lo ≤ joined a y ∧ joined a y ≤ hi := by
  have h0 := Int.fract_nonneg y
  have h1 : 0 ≤ 1 - Int.fract y := sub_nonneg.mpr (Int.fract_lt_one y).le
  have hsum : 1 - Int.fract y + Int.fract y = 1 := sub_add_cancel ..
  have hmem := convex_Icc lo hi (ha ⌊y⌋) (ha (⌊y⌋ + 1)) h1 h0 hsum
  simpa only [joined, smul_eq_mul, mul_comm, Set.mem_Icc] using hmem

/-- The line through rising values rises: within one cell, and otherwise over the integers between. -/
theorem joined_mono (ha : ∀ n, a n ≤ a (n + 1)) : Monotone (joined a) := by
  intro x y hxy
  have hx := Int.fract_lt_one x
  have hy := Int.fract_nonneg y
  rcases (Int.floor_le_floor hxy).eq_or_lt with hfloor | hfloor
  · have hfract : Int.fract x ≤ Int.fract y := by
      rw [Int.fract, Int.fract, hfloor]
      exact sub_le_sub_right hxy _
    simp only [joined, hfloor]
    nlinarith [ha ⌊y⌋]
  · calc joined a x ≤ a (⌊x⌋ + 1) := by unfold joined; nlinarith [ha ⌊x⌋]
      _ ≤ a ⌊y⌋ := monotone_int_of_le_succ ha hfloor
      _ ≤ joined a y := by unfold joined; nlinarith [ha ⌊y⌋]

/-- A multiple of the integers is joined to the multiple itself, and joining is linear in the values. -/
theorem joined_add_mul (c M : α) (y : α) : joined (fun n => M * n + c * a n) y = M * y + c * joined a y := by
  have hy := Int.fract_add_floor y
  simp only [joined]
  push_cast
  linear_combination M * hy

/-- Where neighbouring values are within `M`, the line has a slope of at most `M`: with the slope `M` added it rises,
upside down too. -/
theorem joined_slope {M : α} (ha : ∀ n, |a (n + 1) - a n| ≤ M) {x y : α} (hxy : x ≤ y) :
    |joined a y - joined a x| ≤ M * (y - x) := by
  have tilted (c : α) (hc : ∀ n, M * n + c * a n ≤ M * (n + 1 : Int) + c * a (n + 1)) :
      M * x + c * joined a x ≤ M * y + c * joined a y := by
    simpa only [joined_add_mul] using joined_mono hc hxy
  have hup := tilted 1 fun n => by push_cast; linarith [(abs_le.mp (ha n)).1]
  have hdown := tilted (-1) fun n => by push_cast; linarith [(abs_le.mp (ha n)).2]
  rw [abs_le]
  constructor <;> linarith

end Interpolation

/-! ## The table, repeated over the integers (R108) -/

section Table
variable {α : Type} {table : List α}

/-- The index of a cell is one of the table's. -/
theorem emod_toNat_lt_length (ht : table ≠ []) (n : Int) :
    (n % (table.length : Int)).toNat < table.length := by
  have hL := List.length_pos_iff.mpr ht
  have := Int.emod_nonneg n (show (table.length : Int) ≠ 0 by omega)
  have := Int.emod_lt_of_pos n (show 0 < (table.length : Int) by omega)
  omega

variable [Field α]

theorem tabRead_of_lt {i : Nat} (h : i < table.length) : table[i]? = some (tabRead table i) := by
  simp [tabRead, h]

/-- The entry after `i`, in the last cell the first. -/
theorem succ_mod_of_lt {i L : Nat} (h : i < L) : (i + 1) % L = if i + 1 = L then 0 else i + 1 := by
  split
  next hL => rw [hL, Nat.mod_self]
  next hL => exact Nat.mod_eq_of_lt (by omega)

/-- The table's entry number `n` modulo its length. -/
def tableCell (table : List α) (n : Int) : α := tabRead table (n % (table.length : Int)).toNat

theorem tableCell_mem (ht : table ≠ []) (n : Int) : tableCell table n ∈ table :=
  List.mem_of_getElem? (tabRead_of_lt (emod_toNat_lt_length ht n))

theorem tableCell_succ (ht : table ≠ []) (n : Int) :
    tableCell table (n + 1) = tabRead table (((n % (table.length : Int)).toNat + 1) % table.length) := by
  have hn := Int.emod_nonneg n (show (table.length : Int) ≠ 0 by simpa using ht)
  have hcast : ((((n % (table.length : Int)).toNat + 1) % table.length : Nat) : Int) =
      (n + 1) % (table.length : Int) := by
    push_cast
    rw [Int.toNat_of_nonneg hn, Int.emod_add_emod]
  rw [tableCell, ← hcast, Int.toNat_natCast]

/-- Neighbouring cells are neighbouring entries, the last and the first among them. -/
theorem tableCell_slope [LinearOrder α] {M : α} (ht : table ≠ [])
    (hM : ∀ n a b, table[n]? = some a → table[if n + 1 = table.length then 0 else n + 1]? = some b → |b - a| ≤ M)
    (n : Int) : |tableCell table (n + 1) - tableCell table n| ≤ M := by
  have hi := emod_toNat_lt_length ht n
  have hnext := tabRead_of_lt (Nat.mod_lt ((n % (table.length : Int)).toNat + 1) (List.length_pos_iff.mpr ht))
  rw [tableCell_succ ht]
  refine hM _ _ _ (tabRead_of_lt hi) ?_
  rw [← succ_mod_of_lt hi]
  exact hnext

end Table

/-! ## The line of a table, one turn of the phase for the whole table -/

section TableLine
variable {α : Type} [Field α] [LinearOrder α] [FloorRing α] {table : List α}

/-- The entries of the table over a turn, and over every turn again, joined by straight lines. -/
def tableLine (table : List α) (x : α) : α := joined (tableCell table) (x * table.length)

theorem waveTable_eq_tableLine {F : Functions α} (ht : table ≠ []) (p : α) :
    waveTable (exactNum F) table p = tableLine table p := by
  rw [tableLine, joined, tableCell_succ ht]
  rfl

variable [IsStrictOrderedRing α]

theorem tableLine_mem (ht : table ≠ []) (hmem : ∀ x ∈ table, -1 ≤ x ∧ x ≤ 1) (x : α) :
    -1 ≤ tableLine table x ∧ tableLine table x ≤ 1 :=
  joined_mem (fun n => hmem _ (tableCell_mem ht n)) _

/-- The line repeats after a turn. -/
theorem tableLine_fract (x : α) : tableLine table (Int.fract x) = tableLine table x := by
  have cell (m : Int) : tableCell table (m + -⌊x⌋ * (table.length : Int)) = tableCell table m := by
    rw [tableCell, Int.add_mul_emod_self_right]; rfl
  have hturn : Int.fract x * table.length = x * table.length + ((-⌊x⌋ * (table.length : Int) : Int) : α) := by
    rw [Int.fract]; push_cast; ring
  rw [tableLine, hturn, joined, Int.floor_add_intCast, Int.fract_add_intCast, cell, add_right_comm, cell]
  rfl

/-- A step of period `P`, wrap included, moves the line by at most its slope times the step. -/
theorem tableLine_step {M p P : α} (hM : ∀ n, |tableCell table (n + 1) - tableCell table n| ≤ M) (hP : 0 < P) :
    |tableLine table (Int.fract (p + 1 / P)) - tableLine table p| ≤ table.length * M / P := by
  have hle : p ≤ p + 1 / P := le_add_of_nonneg_right (one_div_pos.mpr hP).le
  rw [tableLine_fract, tableLine, tableLine]
  calc _ ≤ M * ((p + 1 / P) * table.length - p * table.length) :=
        joined_slope hM (mul_le_mul_of_nonneg_right hle (Nat.cast_nonneg _))
    _ = table.length * M / P := by ring

/-- TRIANGLE is the line of the table 1, -1 (R104). -/
theorem waveTriangle_eq_tableLine {p : α} (h0 : 0 ≤ p) (h1 : p < 1) : waveTriangle p = tableLine [1, -1] p := by
  rw [tableLine, waveTriangle]
  split
  next hp =>
    have hfloor : ⌊p * ([1, -1] : List α).length⌋ = 0 := by
      rw [Int.floor_eq_iff]; constructor <;> norm_num <;> linarith
    rw [joined_of_floor _ hfloor, show tableCell [(1 : α), -1] 0 = 1 from rfl,
      show tableCell [(1 : α), -1] (0 + 1) = -1 from rfl]
    norm_num
    ring
  next hp =>
    have hfloor : ⌊p * ([1, -1] : List α).length⌋ = 1 := by
      rw [Int.floor_eq_iff]; constructor <;> norm_num <;> linarith
    rw [joined_of_floor _ hfloor, show tableCell [(1 : α), -1] 1 = -1 from rfl,
      show tableCell [(1 : α), -1] (1 + 1) = 1 by simp [tableCell, tabRead]]
    norm_num
    ring

omit [FloorRing α] in
theorem triangle_entries_mem : ∀ x ∈ [(1 : α), -1], -1 ≤ x ∧ x ≤ 1 := by
  intro x hx
  simp only [List.mem_cons, List.not_mem_nil, or_false] at hx
  rcases hx with rfl | rfl <;> norm_num

end TableLine

/-! ## The waveforms in an exact number system -/

section Waves
variable {α : Type} [Field α] [LinearOrder α] [FloorRing α] {F : Functions α} {table : List α}

/-- The phase of the stateless form is the fractional part of `o/P` (R110). -/
theorem oscStateless_exactNum {k : Kind} {P : α} (hP : P ≠ 0) (o : α) :
    oscStateless (exactNum F) table k P o = wave (exactNum F) table k (Int.fract (o / P)) := by
  have hphase : realMod (exactNum F) o P / P = Int.fract (o / P) := by
    rw [realMod_exactNum, Int.fract, sub_div, mul_div_cancel_left₀ _ hP]
  rw [oscStateless, hphase]

variable [IsStrictOrderedRing α]

/-! ### Range (R112) -/

theorem wave_mem (hsin : ∀ x, -1 ≤ F.sin x ∧ F.sin x ≤ 1) (k : Kind) {p : α} (h0 : 0 ≤ p) (h1 : p < 1)
    (ht : table ≠ []) (hmem : ∀ x ∈ table, -1 ≤ x ∧ x ≤ 1) :
    -1 ≤ wave (exactNum F) table k p ∧ wave (exactNum F) table k p ≤ 1 := by
  cases k with
  | square => simp only [wave, waveSquare]; split <;> norm_num
  | saw => simp only [wave, waveSaw]; constructor <;> linarith
  | triangle =>
    rw [wave, waveTriangle_eq_tableLine h0 h1]
    exact tableLine_mem (List.cons_ne_nil _ _) triangle_entries_mem p
  | sine => exact hsin _
  | table =>
    rw [wave, waveTable_eq_tableLine ht]
    exact tableLine_mem ht hmem p

/-! ### Continuity (R118) -/

section PhaseStep
variable {p P : α}

theorem waveTriangle_step (h0 : 0 ≤ p) (h1 : p < 1) (hP : 0 < P) :
    |waveTriangle (Int.fract (p + 1 / P)) - waveTriangle p| ≤ 4 / P := by
  have hM (n : Int) : |tableCell [(1 : α), -1] (n + 1) - tableCell [(1 : α), -1] n| ≤ 2 := by
    have hcell := triangle_entries_mem _ (tableCell_mem (List.cons_ne_nil (1 : α) [-1]) n)
    have hnext := triangle_entries_mem _ (tableCell_mem (List.cons_ne_nil (1 : α) [-1]) (n + 1))
    rw [abs_le]
    constructor <;> linarith
  rw [waveTriangle_eq_tableLine h0 h1, waveTriangle_eq_tableLine (Int.fract_nonneg _) (Int.fract_lt_one _)]
  calc _ ≤ (([1, -1] : List α).length : α) * 2 / P := tableLine_step hM hP
    _ = 4 / P := by norm_num

theorem waveTable_step {M : α} (ht : table ≠ [])
    (hM : ∀ n a b, table[n]? = some a → table[if n + 1 = table.length then 0 else n + 1]? = some b → |b - a| ≤ M)
    (hP : 0 < P) :
    |waveTable (exactNum F) table (Int.fract (p + 1 / P)) - waveTable (exactNum F) table p| ≤
      table.length * M / P := by
  rw [waveTable_eq_tableLine ht, waveTable_eq_tableLine ht]
  exact tableLine_step (tableCell_slope ht hM) hP

/-- A sine that repeats after a turn has its slope bound over the wrap, too. -/
theorem waveSine_step (hturn : ∀ (p : α) (n : Int), F.sin (2 * F.pi * (p + n)) = F.sin (2 * F.pi * p))
    (hslope : ∀ p q : α, |F.sin (2 * F.pi * p) - F.sin (2 * F.pi * q)| ≤ 2 * F.pi * |p - q|) (hP : 0 < P) :
    |waveSine (exactNum F) (Int.fract (p + 1 / P)) - waveSine (exactNum F) p| ≤ 2 * F.pi / P := by
  have hwrap : waveSine (exactNum F) (Int.fract (p + 1 / P)) = waveSine (exactNum F) (p + 1 / P) := by
    have h := hturn (Int.fract (p + 1 / P)) ⌊p + 1 / P⌋
    rw [Int.fract_add_floor] at h
    exact h.symm
  rw [hwrap]
  calc _ ≤ 2 * F.pi * |p + 1 / P - p| := hslope _ _
    _ = 2 * F.pi / P := by rw [add_sub_cancel_left, abs_of_pos (one_div_pos.mpr hP), mul_one_div]

theorem waveSaw_step (hP : 0 < P) : |waveSaw (p + 1 / P) - waveSaw p| = 2 / P := by
  have hsaw : waveSaw (p + 1 / P) - waveSaw p = -(2 / P) := by unfold waveSaw; ring
  rw [hsaw, abs_neg, abs_of_pos (by positivity)]

omit [FloorRing α] in
theorem waveSquare_step (hP : 0 < P) (hhalf : p + 1 / P < 1 / 2 ∨ 1 / 2 ≤ p) :
    waveSquare (p + 1 / P) = waveSquare p := by
  have hle : p ≤ p + 1 / P := le_add_of_nonneg_right (one_div_pos.mpr hP).le
  rcases hhalf with hlow | hhigh
  · rw [waveSquare, waveSquare, if_pos hlow, if_pos (hle.trans_lt hlow)]
  · rw [waveSquare, waveSquare, if_neg (hhigh.trans hle).not_gt, if_neg hhigh.not_gt]

end PhaseStep

/-- R118 needs two things of the number system's own functions: the sine repeats after a turn, and its slope is at most
`2*pi` a turn. -/
theorem stepBounded_exactNum (hturn : ∀ (p : α) (n : Int), F.sin (2 * F.pi * (p + n)) = F.sin (2 * F.pi * p))
    (hslope : ∀ p q : α, |F.sin (2 * F.pi * p) - F.sin (2 * F.pi * q)| ≤ 2 * F.pi * |p - q|) :
    StepBounded (exactNum F) := by
  rintro table p P q h0 h1 hP rfl
  refine ⟨waveSine_step hturn hslope hP, waveTriangle_step h0 h1 hP,
    fun M ht hM => waveTable_step ht hM hP, fun hwrap => ?_⟩
  have hle : p ≤ p + 1 / P := le_add_of_nonneg_right (one_div_pos.mpr hP).le
  have hq : phaseStep (exactNum F) p P = p + 1 / P := Int.fract_eq_self.mpr ⟨h0.trans hle, hwrap⟩
  rw [hq]
  exact ⟨rfl, waveSaw_step hP, waveSquare_step hP⟩

/-! ### The stateless form and the accumulator (R111, R115, R117) -/

theorem oscStateless_add_period {k : Kind} {P : α} (hP : P ≠ 0) (o : α) :
    oscStateless (exactNum F) table k P (o + P) = oscStateless (exactNum F) table k P o := by
  rw [oscStateless_exactNum hP, oscStateless_exactNum hP, add_div, div_self hP, Int.fract_add_one]

/-- A step from the fractional part of `x` leads to that of `x + 1/P`. -/
theorem oscAcc_phase_of_fract {k : Kind} {p0 P x : α} {v : Voice α} (hv : v.phaseOr p0 = Int.fract x) :
    (oscAcc (exactNum F) p0 table k P v).2.phase = some (Int.fract (x + 1 / P)) := by
  have hstep : Int.fract (Int.fract x + 1 / P) = Int.fract (x + 1 / P) := by
    rw [Int.fract_eq_fract]
    exact ⟨-⌊x⌋, by rw [Int.fract]; push_cast; ring⟩
  rw [oscAcc_phase, hv, phaseStep, frac_exactNum, hstep]

theorem oscAcc_phaseOr_of_fract {k : Kind} {p0 P x : α} {v : Voice α} (hv : v.phaseOr p0 = Int.fract x) :
    (oscAcc (exactNum F) p0 table k P v).2.phaseOr p0 = Int.fract (x + 1 / P) := by
  rw [Voice.phaseOr, oscAcc_phase_of_fract hv, Option.getD_some]

/-- Sample `j` of a run is taken `j` steps on from the phase of the start. -/
theorem accRun_sample {k : Kind} {p0 P x : α} {v : Voice α} {n j : Nat} (hv : v.phaseOr p0 = Int.fract x)
    (hj : j < n) :
    (accRun (exactNum F) p0 table k P n v).1[j]? = some (wave (exactNum F) table k (Int.fract (x + j / P))) := by
  induction n generalizing v x j with
  | zero => omega
  | succ n ih =>
    cases j with
    | zero => simp [accRun, oscAcc, hv]
    | succ j =>
      have hx : x + 1 / P + j / P = x + ((j + 1 : Nat) : α) / P := by push_cast; ring
      rw [accRun, List.getElem?_cons_succ, ih (oscAcc_phaseOr_of_fract hv) (by omega), hx]

theorem accRun_phase {k : Kind} {p0 P x : α} {v : Voice α} (n : Nat) (hv : v.phaseOr p0 = Int.fract x) :
    (accRun (exactNum F) p0 table k P (n + 1) v).2.phase = some (Int.fract (x + (n + 1) / P)) := by
  induction n generalizing v x with
  | zero =>
    simp only [accRun, Nat.cast_zero, zero_add]
    exact oscAcc_phase_of_fract hv
  | succ n ih =>
    have hx : x + 1 / P + (n + 1) / P = x + ((n + 1 : Nat) + 1) / P := by push_cast; ring
    rw [accRun, ih (oscAcc_phaseOr_of_fract hv), hx]

end Waves

/-- Settles O17: the bounds of every exact number system, with the slope of the real sine and of the free one. -/
theorem phaseContinuity : Obligations.PhaseContinuity := by
  refine ⟨fun nh fg => stepBounded_exactNum (fun p n => ?_) fun p q => ?_,
    stepBounded_exactNum (fun p n => ?_) fun p q => ?_⟩
  · change Real.sin (2 * Real.pi * (p + n)) = Real.sin (2 * Real.pi * p)
    rw [mul_add, mul_comm (2 * Real.pi) (n : ℝ), Real.sin_add_int_mul_two_pi]
  · calc |Real.sin (2 * Real.pi * p) - Real.sin (2 * Real.pi * q)|
        ≤ |2 * Real.pi * p - 2 * Real.pi * q| := Real.abs_sin_sub_sin_le _ _
      _ = 2 * Real.pi * |p - q| := by rw [← mul_sub, abs_mul, abs_of_pos Real.two_pi_pos]
  · exact (freeSin_turn _).trans ((sinTurn_add_int p n).trans (freeSin_turn p).symm)
  · change |freeNum.sin (2 * freeNum.pi * p) - freeNum.sin (2 * freeNum.pi * q)| ≤ _
    rw [freeSin_turn, freeSin_turn]
    exact freeFns.sin_slope p q

/-- Settles O14: both sines are in `[-1,1]`. -/
theorem wavesInRange : Obligations.WavesInRange :=
  ⟨fun _ _ _ k _ h0 h1 ht hmem => wave_mem (fun x => ⟨Real.neg_one_le_sin x, Real.sin_le_one x⟩) k h0 h1 ht hmem,
    fun _ k _ h0 h1 ht hmem => wave_mem freeSin_mem k h0 h1 ht hmem⟩

/-- Settles O13: one period more is one turn more. -/
theorem statelessPeriodic : Obligations.StatelessPeriodic :=
  fun _ _ _ _ _ _ _ _ _ o hP _ => (oscStateless_add_period hP.ne' o).symm

/-- Settles O16: from an unset phase with INIT_PHASE 0 the run starts at the fractional part of 0. -/
theorem accumulatorAgreesWithStateless : Obligations.AccumulatorAgreesWithStateless := by
  intro α _ _ _ _ F table k P v n hP hv
  have hstart : v.phaseOr 0 = Int.fract (0 : α) := by rw [Voice.phaseOr, hv, Int.fract_zero, Option.getD_none]
  refine ⟨fun j hj => ?_, ?_⟩
  · rw [accRun_sample hstart hj, zero_add, oscStateless_exactNum hP.ne']
  · rw [accRun_phase n hstart, zero_add]

end Sys2Proof.Machine

namespace Sys2Proof.Machine

/-! ## The oscillator's operations complete on their domains (R100, R102 to R120) -/

section Domain
variable {α : Type} [Field α] [LinearOrder α]

theorem phaseOk_of_mem {p : α} (h0 : 0 ≤ p) (h1 : p < 1) : phaseOk p = true := by simp [phaseOk, h0, h1]

theorem kindOk_of_table {k : Kind} {table : List α} (h : k = .table → tableOk table = true) :
    kindOk k table = true := by
  by_cases hk : k = .table
  · simp [kindOk, h hk]
  · simp [kindOk, hk]

theorem tableOk_iff {table : List α} : tableOk table = true ↔ table ≠ [] ∧ ∀ x ∈ table, -1 ≤ x ∧ x ≤ 1 := by
  simp [tableOk, bipolarOk]

theorem runWave_of_mem {N : Numerics α} (k : Kind) {s : State α} (hc : s.configOk = true) (h0 : 0 ≤ s.seq.phase)
    (h1 : s.seq.phase < 1) : runWave N k s = .next (s.setResult (wave N s.table k s.seq.phase)) :=
  runWave_eq_next.mpr ⟨hc, phaseOk_of_mem h0 h1, rfl⟩

/-- In `[0,1)` the cells of the table are not yet repeated. -/
theorem tableIndex_exactNum [IsStrictOrderedRing α] [FloorRing α] {F : Functions α} {table : List α} {p : α}
    (ht : table ≠ []) (h0 : 0 ≤ p) (h1 : p < 1) :
    (tableIndex (exactNum F) table p : Int) = ⌊p * table.length⌋ := by
  have hL : (0 : α) < table.length := Nat.cast_pos.mpr (List.length_pos_iff.mpr ht)
  have hnonneg : 0 ≤ ⌊p * table.length⌋ := Int.floor_nonneg.mpr (mul_nonneg h0 hL.le)
  have hlt : ⌊p * table.length⌋ < (table.length : Int) := by
    rw [Int.floor_lt, Int.cast_natCast]
    exact mul_lt_of_lt_one_left hL h1
  rw [tableIndex, exactNum_floor, Int.emod_eq_of_lt hnonneg hlt, Int.toNat_of_nonneg hnonneg]

end Domain

/-- Settles O11: `n` is the cell of the phase and `t` the way into it. -/
theorem tableResult : Obligations.TableResult := by
  intro s hc hok h0 h1
  obtain ⟨ht, -⟩ := tableOk_iff.mp hok
  have hn : tableIndex freeNum s.table s.seq.phase < s.table.length := emod_toNat_lt_length ht _
  have hsplit : s.seq.phase * s.table.length =
      (tableIndex freeNum s.table s.seq.phase : ℚ) + Int.fract (s.seq.phase * s.table.length) := by
    have hfloor : (tableIndex freeNum s.table s.seq.phase : ℚ) = ⌊s.seq.phase * s.table.length⌋ := by
      rw [← Int.cast_natCast, freeNum, tableIndex_exactNum ht h0 h1]
    rw [hfloor, Int.floor_add_fract]
  refine ⟨_, _, _, _, hsplit, Int.fract_nonneg _, Int.fract_lt_one _, tabRead_of_lt hn, ?_,
    execOscTable_eq_next.mpr ⟨hok, runWave_of_mem .table hc h0 h1⟩⟩
  rw [← succ_mod_of_lt hn]
  exact tabRead_of_lt (Nat.mod_lt _ (List.length_pos_iff.mpr ht))

/-- Settles O8: the three rules as they stand. -/
theorem squareSawTriangleResults : Obligations.SquareSawTriangleResults :=
  fun _ hc h0 h1 => ⟨runWave_of_mem .square hc h0 h1, runWave_of_mem .saw hc h0 h1, runWave_of_mem .triangle hc h0 h1⟩

/-- Settles O9: the free sine of the phase in turns, with its quarter turns. -/
theorem sineResult : Obligations.SineResult := by
  intro s hc h0 h1
  obtain ⟨hzero, hquarter, hhalf, hthree⟩ := freeFns.sin_quarters
  obtain ⟨hlow, hhigh⟩ := freeFns.sin_mem s.seq.phase
  have hrun : exec .oscSine s = .next (s.setResult (freeFns.sinTurn s.seq.phase)) := by
    rw [← freeSin_turn]
    exact runWave_of_mem .sine hc h0 h1
  refine ⟨_, hrun, hlow, hhigh, ?_, ?_, ?_, ?_⟩ <;> intro hp <;> rwa [hp]

/-- Settles O10: the waveform is the mathematical sine by definition, and its corners are at multiples of `pi/2`. -/
theorem sineIsTheRealSine : Obligations.SineIsTheRealSine := by
  intro nh fg table p
  have hwave (q x : ℝ) (hq : 2 * Real.pi * q = x) : wave (realNum nh fg) table .sine q = Real.sin x := by
    rw [← hq]; rfl
  refine ⟨hwave p _ rfl, ?_, ?_, ?_, ?_⟩
  · rw [hwave 0 0 (by ring), Real.sin_zero]
  · rw [hwave (1 / 4) (Real.pi / 2) (by ring), Real.sin_pi_div_two]
  · rw [hwave (1 / 2) Real.pi (by ring), Real.sin_pi]
  · rw [hwave (3 / 4) (Real.pi / 2 + Real.pi) (by ring), Real.sin_add_pi, Real.sin_pi_div_two]

/-- Settles O12: the operands are in the domain, and the phase is the fractional part of `o/P`. -/
theorem statelessResult : Obligations.StatelessResult := by
  intro k P o s hc hk hP ho
  have hok : (periodOk P && offsetOk o && kindOk k s.table) = true := by
    simp [periodOk, offsetOk, hP, ho, kindOk_of_table hk]
  rw [freeNum, ← oscStateless_exactNum hP.ne']
  exact execOscStateless_eq_next.mpr ⟨hc, hok, rfl⟩

/-- Settles O15: the operands are in the domain and the slot exists. -/
theorem accumulatorStep : Obligations.AccumulatorStep := by
  intro slot k P s v hc hk hP hv
  have hok : (periodOk P && kindOk k s.table) = true := by simp [periodOk, hP, kindOk_of_table hk]
  exact execOscAcc_eq_next.mpr ⟨hc, hok, v, hv, rfl⟩

/-- Settles O18: the value of the hash, of whose arguments none is the state. -/
theorem noiseResult : Obligations.NoiseResult := by
  intro seed k
  obtain ⟨hlow, hhigh⟩ := freeNoise_mem seed k
  refine ⟨_, hlow, hhigh, fun s hc hseed hk => ?_⟩
  exact execOscNoise_eq_next.mpr ⟨hc, by simp [noiseOk, hseed, hk], rfl⟩

end Sys2Proof.Machine

namespace Sys2Proof.Machine

/-! ## What the unit operations leave unchanged (R100, R115, R146, R155, R160, R172) -/

/-- The instructions that can write the PHASE of slot `slot`. -/
def writesPhase (i : Instr) (slot : Nat) : Prop :=
  (∃ f, i = .mixFrame f) ∨ (∃ f, i = .voiceSample slot f) ∨ ∃ k P, i = .oscAcc slot k P

/-- The instructions that can write the LPF_LAST of slot `slot`. -/
def writesLpfLast (i : Instr) (slot : Nat) : Prop :=
  (∃ f, i = .mixFrame f) ∨ (∃ f, i = .voiceSample slot f) ∨ ∃ u f sr, i = .lpfStep slot u f sr

section UnitFrame
variable {α : Type}

/-- What instruction `i` may do to slot `slot`: no more than write PHASE and LPF_LAST, and each only where it is one of
the field's writers. -/
structure SlotFrame (i : Instr) (slot : Nat) (v w : Voice α) : Prop where
  only : v.OnlyPhaseLpf w
  phase : writesPhase i slot ∨ w.phase = v.phase
  lpfLast : writesLpfLast i slot ∨ w.lpfLast = v.lpfLast

/-- What a unit operation `i` may do to the block: write the plan and the result latch, and the slots within their
frames. -/
structure UnitFrame (i : Instr) (s t : State α) : Prop where
  rest : sameButVoicesSeq s t
  seqPhase : t.seq.phase = s.seq.phase
  waveIssue : t.seq.waveIssue = s.seq.waveIssue
  slots : ∀ (slot : Nat) (v : Voice α), s.voices[slot]? = some v →
    ∃ w, t.voices[slot]? = some w ∧ SlotFrame i slot v w

variable {i : Instr} {s t : State α}

theorem SlotFrame.refl (i : Instr) (slot : Nat) (v : Voice α) : SlotFrame i slot v v := ⟨rfl, .inr rfl, .inr rfl⟩

theorem UnitFrame.refl (i : Instr) (s : State α) : UnitFrame i s s :=
  ⟨rfl, rfl, rfl, fun slot v hv => ⟨v, hv, .refl i slot v⟩⟩

theorem UnitFrame.setResult (h : UnitFrame i s t) (x : α) : UnitFrame i s (t.setResult x) :=
  { h with rest := by rw [h.rest]; rfl }

theorem UnitFrame.setPlan (h : UnitFrame i s t) (p : Plan α) : UnitFrame i s (t.setPlan p) :=
  { h with rest := by rw [h.rest]; rfl }

theorem unitFrame_setVoice {slot : Nat} {v w : Voice α} (hv : s.voices[slot]? = some v)
    (hw : SlotFrame i slot v w) : UnitFrame i s (s.setVoice slot w) := by
  refine ⟨rfl, rfl, rfl, fun j u hu => ?_⟩
  rw [setVoice_voices]
  by_cases hj : slot = j
  · subst hj
    obtain rfl : v = u := Option.some.inj (hv.symm.trans hu)
    exact ⟨w, List.getElem?_set_self (List.getElem?_eq_some_iff.mp hv).1, hw⟩
  · exact ⟨u, by rw [List.getElem?_set_ne hj, hu], .refl i j u⟩

theorem unitFrame_mapVoices {f : Voice α → Voice α} (hf : ∀ slot v, SlotFrame i slot v (f v)) :
    UnitFrame i s { s with voices := s.voices.map f } :=
  ⟨rfl, rfl, rfl, fun slot v hv => ⟨f v, by rw [List.getElem?_map, hv]; rfl, hf slot v⟩⟩

variable [Field α] [LinearOrder α]

/-- Every instruction but the three commands stays within its frame. -/
theorem execOn_unitFrame {N : Numerics α} (hi : ¬ isCommand i) (h : execOn N i s = .next t) : UnitFrame i s t := by
  cases i with
  | noteOn note opd => exact absurd (.inl ⟨note, opd, rfl⟩) hi
  | noteOff note => exact absurd (.inr (.inl ⟨note, rfl⟩)) hi
  | render count => exact absurd (.inr (.inr ⟨count, rfl⟩)) hi
  | oscSquare | oscSaw | oscTriangle | oscSine =>
    obtain ⟨-, -, rfl⟩ := runWave_eq_next.mp h
    exact (UnitFrame.refl _ s).setResult _
  | oscTable =>
    obtain ⟨-, h⟩ := runOscTable_eq_next.mp h
    obtain ⟨-, -, rfl⟩ := runWave_eq_next.mp h
    exact (UnitFrame.refl _ s).setResult _
  | oscStateless kind period offset =>
    obtain ⟨-, -, rfl⟩ := runOscStateless_eq_next.mp h
    exact (UnitFrame.refl _ s).setResult _
  | oscAcc slot kind period =>
    obtain ⟨-, -, v, hv, rfl⟩ := runOscAcc_eq_next.mp h
    have hslot : SlotFrame (.oscAcc slot kind period) slot v
        (oscAcc N s.par.initPhase s.table kind (N.ofRat period) v).2 :=
      ⟨rfl, .inl (.inr (.inr ⟨kind, period, rfl⟩)), .inr rfl⟩
    exact (unitFrame_setVoice hv hslot).setResult _
  | oscNoise seed k =>
    obtain ⟨-, -, rfl⟩ := runOscNoise_eq_next.mp h
    exact (UnitFrame.refl _ s).setResult _
  | envSample attack decay sustain release offset rel =>
    obtain ⟨-, -, rfl⟩ := runEnvSample_eq_next.mp h
    exact (UnitFrame.refl _ s).setResult _
  | lpfStep slot input cutoff sampleRate =>
    obtain ⟨-, -, v, hv, rfl⟩ := runLpfStep_eq_next.mp h
    have hslot : SlotFrame (.lpfStep slot input cutoff sampleRate) slot v
        (lpfStep N (N.ofRat input) (N.ofRat cutoff) (N.ofRat sampleRate) v).2 :=
      ⟨rfl, .inr rfl, .inl (.inr (.inr ⟨input, cutoff, sampleRate, rfl⟩))⟩
    exact (unitFrame_setVoice hv hslot).setResult _
  | plan slot frame =>
    obtain ⟨-, -, -, -, -, -, -, rfl⟩ := runPlan_eq_next.mp h
    exact (UnitFrame.refl _ s).setPlan _
  | voiceSample slot frame =>
    obtain ⟨k, -, -, v, c, hv, -, rfl⟩ := runVoiceSample_eq_next.mp h
    have hslot : SlotFrame (.voiceSample slot frame) slot v (voiceSample (s.ctx N k) frame c v).2 :=
      ⟨rfl, .inl (.inr (.inl ⟨frame, rfl⟩)), .inl (.inr (.inl ⟨frame, rfl⟩))⟩
    exact ((unitFrame_setVoice hv hslot).setPlan _).setResult _
  | mixFrame frame =>
    obtain ⟨k, -, -, rfl⟩ := runMixFrame_eq_next.mp h
    rw [mixFrame_voices]
    exact (unitFrame_mapVoices fun slot v =>
      ⟨frameVoice_onlyPhaseLpf .., .inl (.inl ⟨frame, rfl⟩), .inl (.inl ⟨frame, rfl⟩)⟩).setResult _

end UnitFrame

/-- Settles O45: the frame of the instruction, spelt out. -/
theorem unitFrames : Obligations.UnitFrames := by
  intro i s t hon hoff hrender h
  have hi : ¬ isCommand i := by
    rintro (⟨note, opd, rfl⟩ | ⟨note, rfl⟩ | ⟨count, rfl⟩)
    · exact hon note opd rfl
    · exact hoff note rfl
    · exact hrender count rfl
  obtain ⟨hrest, hphase, hissue, hslots⟩ := execOn_unitFrame hi ((execOn_freeNum i s).trans h)
  refine ⟨hrest, fun j => by rw [hrest], hphase, hissue, fun j v hv => ?_⟩
  obtain ⟨w, hw, honly, hwphase, hwlpf⟩ := hslots j v hv
  exact ⟨w, hw, honly, by simpa only [writesPhase, or_assoc] using hwphase,
    by simpa only [writesLpfLast, or_assoc] using hwlpf⟩

/-! ## Where a unit operation issued by itself stops (log 17) -/

section Stops
variable {α : Type} {s : State α}

theorem withSlot_noSuchSlot {slot : Nat} {f : Voice α → Result α} (h : s.voices.length ≤ slot) :
    withSlot s slot f = .fault .noSuchSlot := by
  rw [withSlot, List.getElem?_eq_none h]

theorem withSounding_noSuchSlot {slot : Nat} {f : Voice α → Nat → Result α} (h : s.voices.length ≤ slot) :
    withSounding s slot f = .fault .noSuchSlot := withSlot_noSuchSlot h

theorem frameOk_eq_false {i : Nat} (h : Config.bufMax ≤ i) : frameOk i = false := decide_eq_false (by omega)

theorem noiseOk_eq_false {par : Params α} {seed k : Nat} (h : 2 ^ par.seedW ≤ seed ∨ 2 ^ par.frameW ≤ k) :
    noiseOk par seed k = false := by
  rcases h with h | h
  · simp [noiseOk, h]
  · have hmax : frameMax par < k := lt_of_lt_of_le (Nat.pred_lt (Nat.two_pow_pos _).ne') h
    simp [noiseOk, hmax]

variable [Field α] [LinearOrder α]

/-- With a well-formed configuration a meaning is its body at the configured kind. -/
theorem withConfig_of_configOk {f : Kind → Result α} {r : Result α} (hc : s.configOk = true) (hf : ∀ k, f k = r) :
    withConfig s f = r := by
  obtain ⟨k, hk⟩ := kind?_of_configOk hc
  rw [withConfig_of_kind hk, hf]

/-- An operand outside the domain stops the operation before it looks at anything else. -/
theorem withConfig_outsideDomain {ok : Bool} {r : Kind → Result α} (hc : s.configOk = true) (hok : ok = false) :
    (withConfig s fun k => inDomain ok (r k)) = .fault .outsideDomain :=
  withConfig_of_configOk hc fun k => by rw [hok]; rfl

theorem withSounding_notSounding {slot : Nat} {v : Voice α} {f : Voice α → Nat → Result α}
    (hv : s.voices[slot]? = some v) (hcur : v.cur = none) : withSounding s slot f = .fault .slotNotSounding := by
  rw [withSounding, withSlot_of_get hv, hcur]

/-- Operands in the domain, and a body that stops. -/
theorem withConfig_inDomain_stops {ok : Bool} {f : Kind → Result α} {r : Result α} (hc : s.configOk = true)
    (hok : ok = true) (hf : ∀ k, f k = r) : (withConfig s fun k => inDomain ok (f k)) = r :=
  withConfig_of_configOk hc fun k => by rw [hok, inDomain_true, hf]

theorem runWave_outsideDomain {N : Numerics α} (k : Kind) (hc : s.configOk = true)
    (h : s.seq.phase < 0 ∨ 1 ≤ s.seq.phase) : runWave N k s = .fault .outsideDomain := by
  refine withConfig_outsideDomain hc ?_
  rcases h with h | h <;> simp [phaseOk, h]

/-- OSC.TABLE faults in the same way for a table and for a phase outside the domain. -/
theorem runOscTable_outsideDomain {N : Numerics α} (hc : s.configOk = true)
    (h : s.seq.phase < 0 ∨ 1 ≤ s.seq.phase) : runOscTable N s = .fault .outsideDomain := by
  refine withConfig_of_configOk hc fun k => ?_
  rw [runWave_outsideDomain .table hc h, inDomain, ite_self]

theorem tableOk_eq_false {table : List α} (h : table = [] ∨ ∃ x ∈ table, x < -1 ∨ 1 < x) : tableOk table = false := by
  rw [Bool.eq_false_iff, Ne, tableOk_iff]
  rintro ⟨hne, hmem⟩
  rcases h with h | ⟨x, hx, hlow | hhigh⟩
  · exact hne h
  · exact absurd (hmem x hx).1 (not_le.mpr hlow)
  · exact absurd (hmem x hx).2 (not_le.mpr hhigh)

theorem envOk_eq_false {A D S R o : α} {rel : Option α}
    (h : A < 0 ∨ D < 0 ∨ S < 0 ∨ 1 < S ∨ R < 0 ∨ o < 0 ∨ ∃ r, rel = some r ∧ r < 0) :
    envOk A D S R o rel = false := by
  rcases h with h | h | h | h | h | h | ⟨r, rfl, h⟩ <;> simp [envOk, h]

end Stops

/-- Settles O46: each guard in turn, the configuration's passed. -/
theorem unitsStopOutsideTheirDomain : Obligations.UnitsStopOutsideTheirDomain := by
  intro s hc
  refine ⟨fun k P o h => ?_, fun slot k P h => ?_, fun slot u f sr h => ?_, fun h k => ?_,
    fun A D S R o rel h => withConfig_outsideDomain hc (envOk_eq_false h),
    fun seed k h => withConfig_outsideDomain hc (noiseOk_eq_false h), fun h => ?_, fun frame h => ?_,
    fun slot h => ⟨fun frame hf => ⟨?_, ?_⟩, fun k P hP hk => ?_, fun u f sr hf hsr => ?_⟩,
    fun slot frame v hv hcur hf => ⟨?_, ?_⟩⟩
  · refine withConfig_outsideDomain hc ?_
    rcases h with h | h <;> simp [periodOk, offsetOk, h]
  · exact withConfig_outsideDomain hc (by simp [periodOk, h])
  · refine withConfig_outsideDomain hc ?_
    rcases h with h | h <;> simp [lpfOk, h]
  · cases k with
    | square | saw | triangle | sine => exact runWave_outsideDomain _ hc h
    | table => exact runOscTable_outsideDomain hc h
  · have htable := tableOk_eq_false h
    have hkind : kindOk .table s.table = false := by simp [kindOk, htable]
    exact ⟨withConfig_outsideDomain hc htable,
      fun P o => withConfig_outsideDomain hc (by rw [hkind, Bool.and_false]),
      fun slot P => withConfig_outsideDomain hc (by rw [hkind, Bool.and_false])⟩
  · have hframe := frameOk_eq_false h
    exact ⟨withConfig_outsideDomain hc hframe,
      fun slot => ⟨withConfig_outsideDomain hc hframe, withConfig_outsideDomain hc hframe⟩⟩
  · exact withConfig_inDomain_stops hc (decide_eq_true hf) fun k => withSounding_noSuchSlot h
  · exact withConfig_inDomain_stops hc (decide_eq_true hf) fun k => withSounding_noSuchSlot h
  · exact withConfig_inDomain_stops hc (by simp [periodOk, hP, kindOk_of_table hk]) fun _ => withSlot_noSuchSlot h
  · exact withConfig_inDomain_stops hc (by simp [lpfOk, hf, hsr]) fun k => withSlot_noSuchSlot h
  · exact withConfig_inDomain_stops hc (decide_eq_true hf) fun k => withSounding_notSounding hv hcur
  · exact withConfig_inDomain_stops hc (decide_eq_true hf) fun k => withSounding_notSounding hv hcur

end Sys2Proof.Machine

namespace Sys2Proof.Machine

/-! ## The envelope, stage by stage (R131, R132) -/

section Stages
variable {α : Type} [Field α] [LinearOrder α] {clampOn : Bool} {A D S R o r' x : α} {rel : Option α}

theorem envPre_attack (h : x < A) : envPre A D S x = x / A := if_pos h

theorem envPre_decay (h : A ≤ x) (h' : x < A + D) : envPre A D S x = 1 - (1 - S) * (x - A) / D := by
  rw [envPre, if_neg h.not_gt, if_pos h']

theorem envPre_sustain (h : A ≤ x) (h' : A + D ≤ x) : envPre A D S x = S := by
  rw [envPre, if_neg h.not_gt, if_neg h'.not_gt]

theorem env_unreleased (hr : releasePoint clampOn A D rel = none) :
    env clampOn A D S R o rel = envPre A D S o := by
  rw [env, hr]

theorem env_held (hr : releasePoint clampOn A D rel = some r') (h : o < r') :
    env clampOn A D S R o rel = envPre A D S o := by
  simp [env, hr, h]

theorem env_releasing (hr : releasePoint clampOn A D rel = some r') (h : r' ≤ o) (h' : o < r' + R) :
    env clampOn A D S R o rel = envPre A D S r' * (1 - (o - r') / R) := by
  simp [env, hr, h.not_gt, h']

theorem env_ended (hr : releasePoint clampOn A D rel = some r') (h : r' ≤ o) (h' : r' + R ≤ o) :
    env clampOn A D S R o rel = 0 := by
  simp [env, hr, h.not_gt, h'.not_gt]

theorem releasePoint_some (clampOn : Bool) (A D r : α) :
    releasePoint clampOn A D (some r) = some (if clampOn then max r (A + D) else r) := rfl

theorem releasePoint_eq_some : releasePoint clampOn A D rel = some r' ↔
    ∃ r, rel = some r ∧ (if clampOn then max r (A + D) else r) = r' :=
  Option.map_eq_some_iff

theorem releasePoint_nonneg (hrel : ∀ r, rel = some r → 0 ≤ r) (hr : releasePoint clampOn A D rel = some r') :
    0 ≤ r' := by
  obtain ⟨r, rfl, rfl⟩ := releasePoint_eq_some.mp hr
  split
  · exact (hrel r rfl).trans (le_max_left _ _)
  · exact hrel r rfl

/-- The clamp is there so that no release cuts attack or decay short (R132). -/
theorem add_le_releasePoint (hr : releasePoint true A D rel = some r') : A + D ≤ r' := by
  obtain ⟨r, -, rfl⟩ := releasePoint_eq_some.mp hr
  exact le_max_right _ _

/-- R134's three ways for a release to leave attack and decay whole. -/
theorem add_le_releasePoint_of_late (hlate : clampOn = true ∨ rel = none ∨ ∃ r, rel = some r ∧ A + D < r)
    (hr : releasePoint clampOn A D rel = some r') : A + D ≤ r' := by
  rcases hlate with rfl | rfl | ⟨r, rfl, hlt⟩
  · exact add_le_releasePoint hr
  · cases hr
  · obtain rfl := Option.some.inj hr
    split
    · exact le_max_right _ _
    · exact hlt.le

theorem envOk_of_mem (hA : 0 ≤ A) (hD : 0 ≤ D) (hS0 : 0 ≤ S) (hS1 : S ≤ 1) (hR : 0 ≤ R) (ho : 0 ≤ o)
    (hrel : ∀ r, rel = some r → 0 ≤ r) : envOk A D S R o rel = true := by
  simpa [envOk, hA, hD, hS0, hS1, hR, ho, Option.all_eq_true] using hrel

end Stages

/-- Settles O19: the operands are in the domain, and the level is the stage's. -/
theorem envelopeResult : Obligations.EnvelopeResult := by
  intro A D S R o rel s hc hA hD hS0 hS1 hR ho hrel
  refine ⟨envPre A D S, _,
    execEnvSample_eq_next.mpr ⟨hc, envOk_of_mem hA hD hS0 hS1 hR ho hrel, rfl⟩,
    fun x => envPre_attack, fun x => envPre_decay,
    fun x h => envPre_sustain ((le_add_of_nonneg_right hD).trans h) h, ?_, ?_⟩
  · rintro rfl
    exact env_unreleased rfl
  · rintro r r' rfl rfl
    have hr := releasePoint_some s.par.envReleaseClamp A D r
    exact ⟨env_held hr, env_releasing hr, env_ended hr⟩

/-! ## The envelope without its cases (R134)

With positive times attack, decay and release join up, and each is a linear ramp stopped at both ends. -/

section UnitRamp
variable {α : Type} [Field α] [LinearOrder α] {L x y : α}

/-- The ramp from 0 at 0 to 1 at `L`, constant on either side. -/
def unitRamp (L x : α) : α := max 0 (min (x / L) 1)

theorem unitRamp_nonneg (L x : α) : 0 ≤ unitRamp L x := le_max_left _ _

variable [IsStrictOrderedRing α]

theorem unitRamp_le_one (L x : α) : unitRamp L x ≤ 1 := max_le zero_le_one (min_le_right _ _)

theorem unitRamp_of_nonpos (hL : 0 < L) (h : x ≤ 0) : unitRamp L x = 0 :=
  max_eq_left ((min_le_left _ _).trans (div_nonpos_of_nonpos_of_nonneg h hL.le))

theorem unitRamp_of_le (hL : 0 < L) (h : L ≤ x) : unitRamp L x = 1 := by
  rw [unitRamp, min_eq_right ((one_le_div hL).mpr h), max_eq_right zero_le_one]

theorem unitRamp_of_mem (hL : 0 < L) (h0 : 0 ≤ x) (h1 : x ≤ L) : unitRamp L x = x / L := by
  rw [unitRamp, min_eq_left ((div_le_one hL).mpr h1), max_eq_right (div_nonneg h0 hL.le)]

theorem unitRamp_mono (hL : 0 < L) (h : x ≤ y) : unitRamp L x ≤ unitRamp L y :=
  max_le_max le_rfl (min_le_min (div_le_div_of_nonneg_right h hL.le) le_rfl)

theorem continuous_unitRamp (L : ℝ) : Continuous (unitRamp L) := by
  unfold unitRamp
  fun_prop

end UnitRamp

section ClosedForm
variable {α : Type} [Field α] [LinearOrder α] [IsStrictOrderedRing α]
  {clampOn : Bool} {A D S R o r' x y : α} {rel : Option α}

theorem envPre_eq (hA : 0 < A) (hD : 0 < D) :
    envPre A D S x = min (x / A) 1 - (1 - S) * unitRamp D (x - A) := by
  rcases lt_or_ge x A with h | h
  · rw [envPre_attack h, min_eq_left ((div_le_one hA).mpr h.le), unitRamp_of_nonpos hD (by linarith)]
    ring
  rw [min_eq_right ((one_le_div hA).mpr h)]
  rcases lt_or_ge x (A + D) with h' | h'
  · rw [envPre_decay h h', unitRamp_of_mem hD (by linarith) (by linarith), mul_div_assoc]
  · rw [envPre_sustain h h', unitRamp_of_le hD (by linarith)]
    ring

theorem env_eq (hR : 0 < R) (hr : releasePoint clampOn A D rel = some r') :
    env clampOn A D S R o rel = envPre A D S (min o r') * (1 - unitRamp R (o - r')) := by
  rcases lt_or_ge o r' with h | h
  · rw [env_held hr h, min_eq_left h.le, unitRamp_of_nonpos hR (by linarith)]
    ring
  rw [min_eq_right h]
  rcases lt_or_ge o (r' + R) with h' | h'
  · rw [env_releasing hr h h', unitRamp_of_mem hR (by linarith) (by linarith)]
  · rw [env_ended hr h h', unitRamp_of_le hR (by linarith)]
    ring

/-- Until the release point, and at it, there is nothing of the release. -/
theorem env_of_le_releasePoint (hR : 0 < R) (h : ∀ r', releasePoint clampOn A D rel = some r' → o ≤ r') :
    env clampOn A D S R o rel = envPre A D S o := by
  cases hr : releasePoint clampOn A D rel with
  | none => exact env_unreleased hr
  | some r' =>
    have ho := h r' hr
    rw [env_eq hR hr, min_eq_left ho, unitRamp_of_nonpos hR (by linarith)]
    ring

theorem envPre_of_le_attack (hA : 0 < A) (hD : 0 < D) (h : x ≤ A) : envPre A D S x = x / A := by
  rw [envPre_eq hA hD, min_eq_left ((div_le_one hA).mpr h), unitRamp_of_nonpos hD (by linarith)]
  ring

theorem envPre_of_attack_le (hA : 0 < A) (hD : 0 < D) (h : A ≤ x) :
    envPre A D S x = 1 - (1 - S) * unitRamp D (x - A) := by
  rw [envPre_eq hA hD, min_eq_right ((one_le_div hA).mpr h)]

theorem envPre_mem (hA : 0 < A) (hD : 0 < D) (hS0 : 0 ≤ S) (hS1 : S ≤ 1) (hx : 0 ≤ x) :
    0 ≤ envPre A D S x ∧ envPre A D S x ≤ 1 := by
  rcases le_total x A with h | h
  · rw [envPre_of_le_attack hA hD h]
    exact ⟨div_nonneg hx hA.le, (div_le_one hA).mpr h⟩
  · have hgap : 0 ≤ 1 - S := sub_nonneg.mpr hS1
    have hramp := unitRamp_nonneg D (x - A)
    rw [envPre_of_attack_le hA hD h]
    exact ⟨sub_nonneg.mpr (mul_le_one₀ (sub_le_self 1 hS0) hramp (unitRamp_le_one ..)),
      sub_le_self 1 (mul_nonneg hgap hramp)⟩

theorem envPre_le_of_le_attack (hA : 0 < A) (hD : 0 < D) (hxy : x ≤ y) (hy : y ≤ A) :
    envPre A D S x ≤ envPre A D S y := by
  rw [envPre_of_le_attack hA hD hy, envPre_of_le_attack hA hD (hxy.trans hy)]
  exact div_le_div_of_nonneg_right hxy hA.le

theorem envPre_le_of_attack_le (hA : 0 < A) (hD : 0 < D) (hS1 : S ≤ 1) (hx : A ≤ x) (hxy : x ≤ y) :
    envPre A D S y ≤ envPre A D S x := by
  rw [envPre_of_attack_le hA hD hx, envPre_of_attack_le hA hD (hx.trans hxy)]
  have hramp : unitRamp D (x - A) ≤ unitRamp D (y - A) := unitRamp_mono hD (by linarith)
  exact sub_le_sub_left (mul_le_mul_of_nonneg_left hramp (sub_nonneg.mpr hS1)) 1

theorem env_mem (hA : 0 < A) (hD : 0 < D) (hR : 0 < R) (hS0 : 0 ≤ S) (hS1 : S ≤ 1)
    (hrel : ∀ r, rel = some r → 0 ≤ r) (ho : 0 ≤ o) :
    0 ≤ env clampOn A D S R o rel ∧ env clampOn A D S R o rel ≤ 1 := by
  cases hr : releasePoint clampOn A D rel with
  | none =>
    rw [env_unreleased hr]
    exact envPre_mem hA hD hS0 hS1 ho
  | some r' =>
    rw [env_eq hR hr]
    obtain ⟨hpre0, hpre1⟩ := envPre_mem hA hD hS0 hS1 (le_min ho (releasePoint_nonneg hrel hr))
    have hfade0 : 0 ≤ 1 - unitRamp R (o - r') := sub_nonneg.mpr (unitRamp_le_one ..)
    have hfade1 : 1 - unitRamp R (o - r') ≤ 1 := sub_le_self 1 (unitRamp_nonneg ..)
    exact ⟨mul_nonneg hpre0 hfade0, mul_le_one₀ hpre1 hfade0 hfade1⟩

/-- From the end of the attack on, the level before the release falls and so does the share of it that the release
leaves. -/
theorem env_le_of_attack_le (hA : 0 < A) (hD : 0 < D) (hR : 0 < R) (hS0 : 0 ≤ S) (hS1 : S ≤ 1)
    (hx : A ≤ x) (hxy : x ≤ y) : env true A D S R y rel ≤ env true A D S R x rel := by
  cases hr : releasePoint true A D rel with
  | none =>
    rw [env_unreleased hr, env_unreleased hr]
    exact envPre_le_of_attack_le hA hD hS1 hx hxy
  | some r' =>
    have hmin : A ≤ min x r' := le_min hx (by linarith [add_le_releasePoint hr])
    have hpre := envPre_le_of_attack_le (S := S) hA hD hS1 hmin (min_le_min hxy (le_refl r'))
    have hramp : unitRamp R (x - r') ≤ unitRamp R (y - r') := unitRamp_mono hR (by linarith)
    rw [env_eq hR hr, env_eq hR hr]
    exact mul_le_mul hpre (sub_le_sub_left hramp 1) (sub_nonneg.mpr (unitRamp_le_one ..))
      (envPre_mem hA hD hS0 hS1 (hA.le.trans hmin)).1

theorem continuous_envPre {A D S : ℝ} (hA : 0 < A) (hD : 0 < D) : Continuous (envPre A D S) := by
  have heq : envPre A D S = fun x => min (x / A) 1 - (1 - S) * unitRamp D (x - A) :=
    funext fun x => envPre_eq hA hD
  have hramp := continuous_unitRamp D
  rw [heq]
  fun_prop

end ClosedForm

/-- Settles O20: the range of the product, and its factors at the four offsets. -/
theorem envelopeRangeAndThresholds : Obligations.EnvelopeRangeAndThresholds := by
  intro α _ _ _ clampOn A D S R rel hA hD hR hS0 hS1 hrel
  have hsustain : ∀ x, A + D ≤ x → envPre A D S x = S := fun x h => envPre_sustain (by linarith) h
  refine ⟨fun o ho => env_mem hA hD hR hS0 hS1 hrel ho, ?_, fun hlate => ⟨?_, ?_⟩, ?_, ?_⟩
  · rw [env_of_le_releasePoint hR fun r' => releasePoint_nonneg hrel, envPre_attack hA, zero_div]
  · rw [env_of_le_releasePoint hR fun r' hr => by linarith [add_le_releasePoint_of_late hlate hr],
      envPre_of_le_attack hA hD le_rfl, div_self hA.ne']
  · rw [env_of_le_releasePoint hR fun r' => add_le_releasePoint_of_late hlate, hsustain _ le_rfl]
  · rintro r rfl
    exact env_ended (releasePoint_some clampOn A D r) (le_add_of_nonneg_right hR.le) le_rfl
  · rintro rfl o ho
    rw [env_unreleased rfl, hsustain o ho]

/-- Settles O21: up to `A` the clamp keeps the release away, and after `A` both factors fall. -/
theorem envelopeMonotone : Obligations.EnvelopeMonotone := by
  intro α _ _ _ A D S R rel x y hA hD hR hS0 hS1 hx hxy
  refine ⟨fun hy => ?_, fun hx => env_le_of_attack_le hA hD hR hS0 hS1 hx hxy⟩
  have hrise : ∀ z ≤ A, env true A D S R z rel = envPre A D S z := fun z hz =>
    env_of_le_releasePoint hR fun r' hr => by linarith [add_le_releasePoint hr]
  rw [hrise x (hxy.trans hy), hrise y hy]
  exact envPre_le_of_le_attack hA hD hxy hy

/-- Settles O22: the level is built from continuous ramps, wherever the release point is. -/
theorem envelopeContinuous : Obligations.EnvelopeContinuous := by
  intro clampOn A D S R rel hA hD hR
  have hpre : Continuous (envPre A D S) := continuous_envPre hA hD
  have hramp := continuous_unitRamp R
  cases hr : releasePoint clampOn A D rel with
  | none =>
    simp only [env_unreleased hr]
    exact hpre
  | some r' =>
    simp only [env_eq hR hr]
    fun_prop

end Sys2Proof.Machine

namespace Sys2Proof.Machine

/-! ## The one-pole filter (R145 to R148) -/

section Recurrence
variable {α : Type} [Field α] {x u last M : α}

/-- R146's output is the mean of the input and the previous output with weights `1 - x` and `x`. -/
theorem lpfOut_eq_mean (x u last : α) : lpfOut x u last = (1 - x) * u + x * last := by
  rw [lpfOut, neg_mul, sub_neg_eq_add]

theorem lpfOut_zero_input (x last : α) : lpfOut x 0 last = x * last := by
  rw [lpfOut_eq_mean, mul_zero, zero_add]

theorem lpfOut_from_rest (x u : α) : lpfOut x u 0 = (1 - x) * u := by
  rw [lpfOut_eq_mean, mul_zero, add_zero]

variable [LinearOrder α]

/-- `n` zeros after an input leave `x^n` of its output. -/
theorem lpfRun_zeros_getElem? (n : Nat) (u last : α) :
    (lpfRun x last (u :: List.replicate n 0))[n]? = some (lpfOut x u last * x ^ n) := by
  induction n generalizing u last with
  | zero => simp [lpfRun]
  | succ n ih =>
    rw [List.replicate_succ, lpfRun, List.getElem?_cons_succ, ih, lpfOut_zero_input]
    congr 1
    ring

variable [IsStrictOrderedRing α]

theorem abs_lpfOut_le (hx0 : 0 ≤ x) (hx1 : x ≤ 1) (hu : |u| ≤ M) (hlast : |last| ≤ M) :
    |lpfOut x u last| ≤ M := by
  have hgap : 0 ≤ 1 - x := sub_nonneg.mpr hx1
  rw [lpfOut_eq_mean]
  calc |(1 - x) * u + x * last|
      ≤ |(1 - x) * u| + |x * last| := abs_add_le _ _
    _ = (1 - x) * |u| + x * |last| := by rw [abs_mul, abs_mul, abs_of_nonneg hgap, abs_of_nonneg hx0]
    _ ≤ (1 - x) * M + x * M :=
        add_le_add (mul_le_mul_of_nonneg_left hu hgap) (mul_le_mul_of_nonneg_left hlast hx0)
    _ = M := by ring

/-- Each output is within the bound, so it may serve as the next step's previous output. -/
theorem abs_le_of_mem_lpfRun (hx0 : 0 ≤ x) (hx1 : x ≤ 1) {us : List α} (hlast : |last| ≤ M)
    (hus : ∀ u ∈ us, |u| ≤ M) : ∀ y ∈ lpfRun x last us, |y| ≤ M := by
  induction us generalizing last with
  | nil => exact fun y hy => absurd hy List.not_mem_nil
  | cons u us ih =>
    rw [List.forall_mem_cons] at hus
    obtain ⟨hu, hus⟩ := hus
    have hout := abs_lpfOut_le hx0 hx1 hu hlast
    exact List.forall_mem_cons.mpr ⟨hout, ih hout hus⟩

end Recurrence

section Coefficient
variable {α : Type} [Field α] [LinearOrder α] [IsStrictOrderedRing α] {N : Numerics α} {f sr : α}

/-- At half the sample rate the coefficient is `exp(-pi)`. -/
theorem lpfCoeff_half (N : Numerics α) (hsr : 0 < sr) : lpfCoeff N (sr / 2) sr = N.exp (-N.pi) := by
  have hsr' := hsr.ne'
  rw [lpfCoeff]
  congr 1
  field_simp

/-- The coefficient's exponent falls as the cutoff rises. -/
theorem lpfCoeff_strictAnti (hpi : 0 < N.pi) (hexp : StrictMono N.exp) (hsr : 0 < sr) :
    StrictAnti fun f => lpfCoeff N f sr := by
  have hneg : -2 * N.pi < 0 := by linarith
  exact fun _ _ h => hexp (div_lt_div_of_pos_right (mul_lt_mul_of_neg_left h hneg) hsr)

/-- At cutoff 0 the coefficient would be `exp 0`. -/
theorem lpfCoeff_lt_one (hpi : 0 < N.pi) (hexp : StrictMono N.exp) (hzero : N.exp 0 = 1) (hf : 0 < f)
    (hsr : 0 < sr) : lpfCoeff N f sr < 1 := by
  have h : lpfCoeff N f sr < lpfCoeff N 0 sr := lpfCoeff_strictAnti hpi hexp hsr hf
  rwa [lpfCoeff, lpfCoeff, mul_zero, zero_div, hzero] at h

/-- R147 in every ordered field, from a positive `pi` and an exponential that is positive, strictly increasing and 1 at
0. -/
theorem filterBounded_of_exp (hpi : 0 < N.pi) (hpos : ∀ x, 0 < N.exp x) (hexp : StrictMono N.exp)
    (hzero : N.exp 0 = 1) : FilterBounded N := by
  intro f sr hf hsr
  have hanti := lpfCoeff_strictAnti hpi hexp hsr
  have hx0 : 0 < lpfCoeff N f sr := hpos _
  have hx1 := lpfCoeff_lt_one hpi hexp hzero hf hsr
  rw [← lpfCoeff_half N hsr]
  exact ⟨hx0, hx1, fun _ h => hanti h, fun h => hanti.antitone h, fun h => hanti h,
    fun _ _ _ hlast hus => abs_le_of_mem_lpfRun hx0.le hx1.le hlast hus⟩

end Coefficient

theorem filterBounded_realNum (nh : Nat → Nat → ℝ) (fg : ℝ → ℝ) : FilterBounded (realNum nh fg) :=
  filterBounded_of_exp Real.pi_pos Real.exp_pos Real.exp_strictMono Real.exp_zero

theorem filterBounded_freeNum : FilterBounded freeNum :=
  filterBounded_of_exp freePi_pos freeFns.exp_pos freeFns.exp_mono freeFns.exp_zero

/-- Settles O24: both exponentials are positive, strictly increasing and 1 at 0. -/
theorem filterCoefficientRange : Obligations.FilterCoefficientRange :=
  ⟨filterBounded_realNum, filterBounded_freeNum⟩

/-- Settles O25: the outputs are a geometric sequence whose ratio is the coefficient, which is between 0 and 1. -/
theorem filterImpulseResponse : Obligations.FilterImpulseResponse := by
  intro nh fg f sr x y hf hsr hx hy
  obtain ⟨hx0, hx1, -⟩ := filterBounded_realNum nh fg f sr hf hsr
  rw [← hx] at hx0 hx1
  have hgeom : ∀ n, y n = (1 - x) * x ^ n := fun n => by
    rw [← Option.some_inj, ← hy, lpfRun_zeros_getElem?, lpfOut_from_rest, mul_one]
  have hgap : 0 < 1 - x := sub_pos.mpr hx1
  refine ⟨fun n => ⟨hgeom n, ?_, ?_⟩, ?_⟩
  · rw [hgeom]
    exact mul_pos hgap (pow_pos hx0 n)
  · rw [hgeom, hgeom]
    exact mul_lt_mul_of_pos_left (pow_lt_pow_right_of_lt_one₀ hx0 hx1 n.lt_succ_self) hgap
  · have hlim := (tendsto_pow_atTop_nhds_zero_of_lt_one hx0.le hx1).const_mul (1 - x)
    rw [mul_zero] at hlim
    exact hlim.congr fun n => (hgeom n).symm

/-- Settles O23: the operands are in the domain and the slot exists. -/
theorem filterStep : Obligations.FilterStep := by
  intro slot u f sr x y s v hc hf hsr hv hx hy
  have hok : lpfOk f sr = true := by simp [lpfOk, hf, hsr]
  have hout : y = lpfOut (lpfCoeff freeNum f sr) u v.lpfLast := by
    rw [hy, hx, lpfOut_eq_mean, lpfCoeff]
  rw [hout]
  exact execLpfStep_eq_next.mpr ⟨hc, hok, v, hv, rfl⟩

end Sys2Proof.Machine

namespace Sys2Proof.Machine

/-! ## What a well-formed configuration gives a frame (R8, R9) -/

section ConfigRanges
variable {α : Type} [Field α] [LinearOrder α] {s : State α} {k : Kind}

theorem adsrOk_iff {e : Adsr α} :
    adsrOk e = true ↔
      0 ≤ e.attackMs ∧ 0 ≤ e.decayMs ∧ 0 ≤ e.releaseMs ∧ 0 ≤ e.sustain ∧ e.sustain ≤ 1 := by
  simp [adsrOk, and_assoc]

theorem cfgOk_iff {cfg : Cfg α} {table : List α} :
    cfgOk cfg table = true ↔
      0 < cfg.sampleRate ∧ 0 < cfg.lpfBaseFreq ∧ (decodeKind cfg.oscKind).isSome = true ∧
      adsrOk cfg.ampEnv = true ∧ adsrOk cfg.modEnv = true ∧
      (decodeKind cfg.oscKind = some .table → tableOk table = true) := by
  simp [cfgOk, and_assoc, imp_iff_not_or]

theorem configOk_of_kind? (hk : s.kind? = some k) : s.configOk = true := (kind?_eq_some.mp hk).1

theorem cfgOk_of_configOk (hc : s.configOk = true) : cfgOk s.cfg s.table = true :=
  (Bool.and_eq_true_iff.mp hc).2

theorem fadeOk_of_configOk (hc : s.configOk = true) : fadeOk s.par.fade = true :=
  (Bool.and_eq_true_iff.mp (Bool.and_eq_true_iff.mp hc).1).2

/-- The configured kind has the table it needs. -/
theorem kindOk_of_kind? (hk : s.kind? = some k) : kindOk k s.table = true := by
  obtain ⟨hc, hdecode⟩ := kind?_eq_some.mp hk
  obtain ⟨-, -, -, -, -, htable⟩ := cfgOk_iff.mp (cfgOk_of_configOk hc)
  exact kindOk_of_table fun h => htable (h ▸ hdecode)

end ConfigRanges

/-! ## The range of an envelope whose stages may be empty (R134, R137)

R9 allows times of 0. A stage that the offset lies in has a positive length, so no level is divided by 0. -/

section EmptyStages
variable {α : Type} [Field α] [LinearOrder α] [IsStrictOrderedRing α]
  {clampOn : Bool} {A D S R o x : α} {rel : Option α}

theorem div_mem_of_lt {a b : α} (ha : 0 ≤ a) (hab : a < b) : 0 ≤ a / b ∧ a / b ≤ 1 :=
  ⟨div_nonneg ha (ha.trans hab.le), div_le_one_of_le₀ hab.le (ha.trans hab.le)⟩

theorem envPre_mem_of_nonneg (hS0 : 0 ≤ S) (hS1 : S ≤ 1) (hx : 0 ≤ x) :
    0 ≤ envPre A D S x ∧ envPre A D S x ≤ 1 := by
  rcases lt_or_ge x A with hA | hA
  · rw [envPre_attack hA]
    exact div_mem_of_lt hx hA
  rcases lt_or_ge x (A + D) with hAD | hAD
  · obtain ⟨h0, h1⟩ := div_mem_of_lt (a := x - A) (b := D) (by linarith) (by linarith)
    rw [envPre_decay hA hAD, mul_div_assoc]
    exact ⟨sub_nonneg.mpr (mul_le_one₀ (sub_le_self 1 hS0) h0 h1),
      sub_le_self 1 (mul_nonneg (sub_nonneg.mpr hS1) h0)⟩
  · rw [envPre_sustain hA hAD]
    exact ⟨hS0, hS1⟩

/-- `env_mem` without a condition on the times. -/
theorem env_mem_of_nonneg (hS0 : 0 ≤ S) (hS1 : S ≤ 1) (hrel : ∀ r, rel = some r → 0 ≤ r)
    (ho : 0 ≤ o) : 0 ≤ env clampOn A D S R o rel ∧ env clampOn A D S R o rel ≤ 1 := by
  have hpre (x : α) (hx : 0 ≤ x) : 0 ≤ envPre A D S x ∧ envPre A D S x ≤ 1 := envPre_mem_of_nonneg hS0 hS1 hx
  cases hr : releasePoint clampOn A D rel with
  | none =>
    rw [env_unreleased hr]
    exact hpre o ho
  | some r' =>
    rcases lt_or_ge o r' with hheld | hheld
    · rw [env_held hr hheld]
      exact hpre o ho
    rcases lt_or_ge o (r' + R) with hend | hend
    · obtain ⟨hpre0, hpre1⟩ := hpre r' (releasePoint_nonneg hrel hr)
      obtain ⟨h0, h1⟩ := div_mem_of_lt (a := o - r') (b := R) (by linarith) (by linarith)
      rw [env_releasing hr hheld hend]
      exact ⟨mul_nonneg hpre0 (sub_nonneg.mpr h1),
        mul_le_one₀ hpre1 (sub_nonneg.mpr h1) (sub_le_self 1 h0)⟩
    · rw [env_ended hr hheld hend]
      exact ⟨le_rfl, zero_le_one⟩

theorem msToFrames_nonneg {ms sr : α} (hms : 0 ≤ ms) (hsr : 0 ≤ sr) : 0 ≤ msToFrames ms sr :=
  div_nonneg (mul_nonneg hsr hms) (by norm_num)

/-- A well-formed descriptor's level, at any counters (R42, R134, R137). -/
theorem envAt_mem {e : Adsr α} (par : Params α) (sr : α) (he : adsrOk e = true) (o : Nat) (rel : Option Nat) :
    0 ≤ envAt par sr e o rel ∧ envAt par sr e o rel ≤ 1 := by
  obtain ⟨-, -, -, hS0, hS1⟩ := adsrOk_iff.mp he
  refine env_mem_of_nonneg hS0 hS1 (fun r hr => ?_) o.cast_nonneg
  obtain ⟨n, -, rfl⟩ := Option.map_eq_some_iff.mp hr
  exact n.cast_nonneg

/-- An envelope is over from the release time after its release point on (R131, R132). -/
theorem envAt_ended {e : Adsr α} {sr : α} {par : Params α} {o r : Nat} (he : adsrOk e = true) (hsr : 0 ≤ sr)
    (h : (if par.envReleaseClamp then max (r : α) (attackFrames sr e + decayFrames sr e) else r) +
      releaseFrames sr e ≤ o) : envAt par sr e o (some r) = 0 := by
  obtain ⟨-, -, hrelease, -⟩ := adsrOk_iff.mp he
  exact env_ended (releasePoint_some par.envReleaseClamp _ _ (r : α))
    ((le_add_of_nonneg_right (msToFrames_nonneg hrelease hsr)).trans h) h

end EmptyStages

/-! ## The frequencies of a plan (R157, R158) -/

section PlanRanges
variable {α : Type} [Field α] [LinearOrder α] [IsStrictOrderedRing α] {c : Ctx α}

theorem oscFreq_pos (hexp2 : ∀ x, 0 < c.num.exp2 x) (v : Voice α) (o : Nat) : 0 < oscFreq c v o :=
  mul_pos (mul_pos (by norm_num) (hexp2 _)) (hexp2 _)

theorem lpfFreq_pos (hexp2 : ∀ x, 0 < c.num.exp2 x) (hbase : 0 < c.cfg.lpfBaseFreq) (v : Voice α) (o : Nat) :
    0 < lpfFreq c v o :=
  mul_pos hbase (hexp2 _)

theorem makePlan_period_pos (hexp2 : ∀ x, 0 < c.num.exp2 x) (hsr : 0 < c.cfg.sampleRate) (v : Voice α) (o : Nat) :
    0 < (makePlan c v o).period :=
  div_pos hsr (oscFreq_pos hexp2 v o)

end PlanRanges

/-- PLAN on a sounding slot answers its plan (R155, R156). -/
theorem exec_plan {slot frame cur : Nat} {k : Kind} {s : State} {v : Voice ℚ} (hk : s.kind? = some k)
    (hf : frame < Config.bufMax) (hv : s.voices[slot]? = some v) (hcur : v.cur = some cur) :
    exec (.plan slot frame) s =
      .next (s.setPlan (makePlan (s.ctx freeNum k) v (frameOffset s.par cur frame))) :=
  execPlan_eq_next.mpr ⟨k, hk, decide_eq_true hf, v, cur, hv, hcur, rfl⟩

/-- Settles O26: the plan is `makePlan`, whose levels and frequencies have the ranges of R134, R157 and R158. -/
theorem planResult : Obligations.PlanResult := by
  intro slot frame cur o k s v m amp base fosc hk hf hv hcur ho hm hamp hbase hfosc
  obtain ⟨hsr, hlpf, -, hampEnv, hmodEnv, -⟩ := cfgOk_iff.mp (cfgOk_of_configOk (configOk_of_kind? hk))
  have hlevel : m = modLevel (s.ctx freeNum k) v o := hm
  have hgain : amp = ampGain (s.ctx freeNum k) v o := hamp
  have hfreq : fosc = oscFreq (s.ctx freeNum k) v o := by rw [hfosc, hbase, hlevel]; rfl
  have hbase_pos : 0 < base := by rw [hbase]; exact mul_pos (by norm_num) (freeExp2_pos _)
  have hfosc_pos : 0 < fosc := hfreq ▸ oscFreq_pos freeExp2_pos v o
  obtain ⟨hm0, hm1⟩ := envAt_mem s.par s.cfg.sampleRate hmodEnv o v.rel
  obtain ⟨hamp0, hamp1⟩ := envAt_mem s.par s.cfg.sampleRate hampEnv o v.rel
  refine ⟨?_, hlevel ▸ hm0, hlevel ▸ hm1, hgain ▸ hamp0, hgain ▸ hamp1, hfosc_pos, div_pos hsr hfosc_pos,
    mul_pos hlpf (freeExp2_pos _), fun hdepth => ?_, fun hdepth m' hm' => ?_⟩
  · rw [exec_plan hk hf hv hcur, hfreq, hlevel, hgain, ho]
    rfl
  · rw [hfosc, hdepth, mul_zero, show freeNum.exp2 0 = 1 from freeFns.exp2_zero, mul_one]
  · rw [hfosc]
    exact mul_lt_mul_of_pos_left (freeExp2_lt (mul_lt_mul_of_neg_right hm' hdepth)) hbase_pos

/-! ## VOICE.SAMPLE, unit by unit (R160) -/

section VoiceUnits

@[simp] theorem configOk_setVoice {α : Type} [Field α] [LinearOrder α] (slot : Nat) (v : Voice α) (s : State α) :
    (s.setVoice slot v).configOk = s.configOk := by
  simp [State.configOk]

theorem setVoice_setVoice {α : Type} (slot : Nat) (v w : Voice α) (s : State α) :
    (s.setVoice slot v).setVoice slot w = s.setVoice slot w := by
  simp [State.setVoice]

/-- The frame offset is a counter, as OSC.NOISE asks of its second operand (R120, R156). -/
theorem noiseOk_frameOffset {α : Type} {par : Params α} {seed : Nat} (hseed : seed < 2 ^ par.seedW) (cur i : Nat) :
    noiseOk par seed (frameOffset par cur i) = true := by
  simp [noiseOk, hseed, frameOffset, satAdd]

variable {slot frame : Nat} {v : Voice ℚ} {s : State}

/-- Under a plan that is in the domains of the three units the sequence is `voiceStep`: each unit finds the slot that
the one before left. -/
theorem issueVoice_of_plan {pl : Plan ℚ} (k : Kind) (hc : s.configOk = true) (hv : s.voices[slot]? = some v)
    (hplan : exec (.plan slot frame) s = .next (s.setPlan pl))
    (hacc : (periodOk pl.period && kindOk pl.kind s.table) = true) (hnoise : noiseOk s.par v.seed pl.offset = true)
    (hlpf : lpfOk pl.fLpf pl.sampleRate = true) :
    issueVoice slot frame v s = some (((s.setPlan pl).setVoice slot (voiceStep (s.ctx freeNum k) pl v).2).setResult
      (voiceStep (s.ctx freeNum k) pl v).1) := by
  have hslot : slot < s.voices.length := (List.getElem?_eq_some_iff.mp hv).1
  obtain ⟨x, w, hxw⟩ : ∃ x w, oscAcc freeNum s.par.initPhase s.table pl.kind pl.period v = (x, w) := ⟨_, _, rfl⟩
  have hissue1 : exec (.oscAcc slot pl.kind pl.period) (s.setPlan pl) =
      .next (((s.setPlan pl).setVoice slot w).setResult x) :=
    execOscAcc_eq_next.mpr ⟨hc, hacc, v, hv, by simp [hxw]⟩
  have hissue2 : exec (.oscNoise v.seed pl.offset) (((s.setPlan pl).setVoice slot w).setResult x) =
      .next (((s.setPlan pl).setVoice slot w).setResult (noise freeNum v.seed pl.offset)) :=
    execOscNoise_eq_next.mpr ⟨(configOk_setVoice slot w s).trans hc, hnoise, rfl⟩
  obtain ⟨y, u, hyu⟩ : ∃ y u, lpfStep freeNum (mixInput s.cfg x (noise freeNum v.seed pl.offset)) pl.fLpf
    pl.sampleRate w = (y, u) := ⟨_, _, rfl⟩
  have hissue3 : exec (.lpfStep slot (mixInput s.cfg x (noise freeNum v.seed pl.offset)) pl.fLpf pl.sampleRate)
      (((s.setPlan pl).setVoice slot w).setResult (noise freeNum v.seed pl.offset)) =
      .next (((s.setPlan pl).setVoice slot u).setResult y) :=
    execLpfStep_eq_next.mpr ⟨(configOk_setVoice slot w s).trans hc, hlpf, w, List.getElem?_set_self hslot,
      by rw [hyu, ← setVoice_setVoice slot w u]; rfl⟩
  have hseed : w.seed = v.seed := by rw [← congrArg (·.2.seed) hxw, oscAcc_seed]
  have hstep : voiceStep (s.ctx freeNum k) pl v = (y * pl.amp * fadeFactor (s.ctx freeNum k) v pl.offset, u) := by
    simp [voiceStep, State.ctx, hxw, hseed, hyu]
  rw [hstep]
  simp only [issueVoice, hplan, nextOf, Option.bind_some, setPlan_seq, hissue1, setResult_seq, setVoice_seq, hissue2,
    hissue3, Option.map_some]
  rfl

/-- Settles O27: the plan's period, cutoff, sample rate and offset are in the domains of the three units. -/
theorem voiceSampleIsItsUnits : Obligations.VoiceSampleIsItsUnits := by
  intro slot frame cur s v hc hf hv hcur hseed
  obtain ⟨k, hk⟩ := kind?_of_configOk hc
  obtain ⟨hsr, hbase, -⟩ := cfgOk_iff.mp (cfgOk_of_configOk hc)
  have hperiod := makePlan_period_pos (c := s.ctx freeNum k) freeExp2_pos hsr v (frameOffset s.par cur frame)
  have hcutoff := lpfFreq_pos (c := s.ctx freeNum k) freeExp2_pos hbase v (frameOffset s.par cur frame)
  have hissue := issueVoice_of_plan k hc hv (exec_plan hk hf hv hcur)
    (Bool.and_eq_true_iff.mpr ⟨decide_eq_true hperiod, kindOk_of_kind? hk⟩) (noiseOk_frameOffset hseed cur frame)
    (Bool.and_eq_true_iff.mpr ⟨decide_eq_true hcutoff, decide_eq_true hsr⟩)
  exact ⟨_, hissue, execVoiceSample_eq_next.mpr ⟨k, hk, decide_eq_true hf, v, cur, hv, hcur, rfl⟩⟩

end VoiceUnits

/-! ## A voice past its end, and a fading voice (R159, R163, R164) -/

/-- A mark at or before the counter is at or before the frame offset (R156). -/
theorem le_frameOffset {α : Type} {par : Params α} {m cur : Nat} (hm : m ≤ cur) (hcur : cur ≤ frameMax par)
    (i : Nat) : m ≤ frameOffset par cur i :=
  le_min (hm.trans (Nat.le_add_right cur i)) (hm.trans hcur)

section Gains
variable {α : Type} [Field α] [LinearOrder α] {c : Ctx α} {i cur : Nat} {v : Voice α}

theorem frameSample_of_cur (hcur : v.cur = some cur) : frameSample c i v = (voiceSample c i cur v).1 := by
  simp [frameSample, hcur]

theorem frameSample_of_free (hcur : v.cur = none) : frameSample c i v = 0 := by
  simp [frameSample, hcur]

theorem frameVoice_of_cur (hcur : v.cur = some cur) : frameVoice c i v = (voiceSample c i cur v).2 := by
  simp [frameVoice, hcur]

theorem fadeFactor_of_fading {m : Nat} (hm : v.fade = some m) (o : Nat) :
    fadeFactor c v o = fadeGain c.num c.par.fade (o - m) := by
  simp [fadeFactor, hm]

theorem fadeFactor_of_not_fading (hm : v.fade = none) (o : Nat) : fadeFactor c v o = 1 := by
  simp [fadeFactor, hm]

/-- The gain is read after everything else (R160). -/
theorem voiceStep_of_gain_eq_zero {pl : Plan α} (h : pl.amp = 0) : (voiceStep c pl v).1 = 0 := by
  rw [voiceStep, h, mul_zero, zero_mul]

/-- The mark is read by the fade factor alone. -/
theorem frameVoice_fading {m : Nat} (hcur : v.cur = some cur) (hm : v.fade = some m) :
    frameVoice c i v = { frameVoice c i { v with fade := none } with fade := some m } := by
  rw [frameVoice_of_cur hcur, frameVoice_of_cur (v := { v with fade := none }) hcur, ← hm]
  rfl

theorem frameSample_fading {m : Nat} (hcur : v.cur = some cur) (hm : v.fade = some m) :
    frameSample c i v = frameSample c i { v with fade := none } *
      fadeGain c.num c.par.fade ((frameOffset c.par cur i : α) - m) := by
  rw [frameSample_of_cur hcur, frameSample_of_cur (v := { v with fade := none }) hcur, ← fadeFactor_of_fading hm,
    voiceSample_eq, voiceSample_eq, voiceStep, voiceStep,
    fadeFactor_of_not_fading (v := { v with fade := none }) rfl, mul_one]
  rfl

/-- R163: either the ramp, of a positive length and from 0 on, or a function with that range. -/
theorem fadeGain_mem [IsStrictOrderedRing α] {N : Numerics α} {shape : FadeShape α} {d : α}
    (hshape : fadeOk shape = true) (hfree : ∀ d, 0 ≤ N.fadeGain d ∧ N.fadeGain d ≤ 1) (hd : 0 ≤ d) :
    0 ≤ fadeGain N shape d ∧ fadeGain N shape d ≤ 1 := by
  cases shape with
  | free => exact hfree d
  | ramp F =>
    rw [fadeGain]
    split
    next hlt =>
      obtain ⟨h0, h1⟩ := div_mem_of_lt hd hlt
      exact ⟨sub_nonneg.mpr h1, sub_le_self 1 h0⟩
    next => exact ⟨le_rfl, zero_le_one⟩

end Gains

/-- Settles O34: the amplitude envelope is over, and the rest of the frame goes by the plan. -/
theorem endedVoiceAddsZero : Obligations.EndedVoiceAddsZero := by
  rintro s k v cur r i _ _ _ u _ hk hcur hrel rfl hend rfl rfl hu rfl
  obtain ⟨hsr, -, -, hampEnv, -⟩ := cfgOk_iff.mp (cfgOk_of_configOk (configOk_of_kind? hk))
  have hgain : ampGain (s.ctx freeNum k) v (frameOffset s.par cur i) = 0 := by
    rw [ampGain, hrel]
    exact envAt_ended hampEnv hsr.le hend
  constructor
  · rw [frameSample_of_cur hcur]
    exact voiceStep_of_gain_eq_zero hgain
  · rw [frameVoice_of_cur hcur, hu, ← lpfOut_eq_mean]
    rfl

/-- Settles O36: the mark is read by the fade factor alone, whose gain is `g`. -/
theorem fadeTouchesOnlyTheGain : Obligations.FadeTouchesOnlyTheGain := by
  intro s k i m cur v d g hk hcur hm hle hmax hd hramp hfree
  have hdist : d = (frameOffset s.par cur i : ℚ) - m := hd
  have hd0 : 0 ≤ d := by
    rw [hdist]
    exact sub_nonneg.mpr (Nat.cast_le.mpr (le_frameOffset hle hmax i))
  have hg : g = fadeGain freeNum s.par.fade d := by
    cases hshape : s.par.fade with
    | ramp F => exact hramp F hshape
    | free => exact hfree hshape
  obtain ⟨hg0, hg1⟩ := fadeGain_mem (fadeOk_of_configOk (configOk_of_kind? hk)) freeFade_mem hd0
  refine ⟨frameVoice_fading hcur hm, hd0, hg ▸ hg0, hg ▸ hg1, ?_⟩
  rw [hg, hdist]
  exact frameSample_fading hcur hm

/-! ## Two RENDERs that agree slot by slot

NOISE_GAIN 0 and no fade mark hide two functions (R162, R163), and no rule reads a velocity (R165). Either way two
RENDERs are compared whose slots and numerics may differ; they agree if every frame of every slot does. -/

section RenderAgrees
variable {α : Type} [Field α] [LinearOrder α] {c c' : Ctx α} {f : Voice α → Voice α} {P : Voice α → Prop}

/-- On the voices of `P`, VOICE.SAMPLE under `c'` of a voice changed by `f` is VOICE.SAMPLE under `c` of the voice
itself, with the slot it leaves changed by `f`. -/
structure FramesAgree (c c' : Ctx α) (f : Voice α → Voice α) (P : Voice α → Prop) : Prop where
  toF32 : c'.num.toF32 = c.num.toF32
  keeps : ∀ (i : Nat) (v : Voice α), P v → P (frameVoice c i v)
  cur : ∀ v, (f v).cur = v.cur
  voiceSample : ∀ i cur v, P v →
    voiceSample c' i cur (f v) = ((voiceSample c i cur v).1, f (voiceSample c i cur v).2)

theorem FramesAgree.frameVoice (h : FramesAgree c c' f P) (i : Nat) {v : Voice α} (hv : P v) :
    frameVoice c' i (f v) = f (frameVoice c i v) := by
  cases hcur : v.cur with
  | none => rw [frameVoice_of_free c i hcur, frameVoice_of_free c' i ((h.cur v).trans hcur)]
  | some cur =>
    rw [frameVoice_of_cur hcur, frameVoice_of_cur ((h.cur v).trans hcur), h.voiceSample i cur v hv]

theorem FramesAgree.frameSample (h : FramesAgree c c' f P) (i : Nat) {v : Voice α} (hv : P v) :
    frameSample c' i (f v) = frameSample c i v := by
  cases hcur : v.cur with
  | none => rw [frameSample_of_free hcur, frameSample_of_free ((h.cur v).trans hcur)]
  | some cur =>
    rw [frameSample_of_cur hcur, frameSample_of_cur ((h.cur v).trans hcur), h.voiceSample i cur v hv]

theorem FramesAgree.mixFrame (h : FramesAgree c c' f P) (i : Nat) {vs : List (Voice α)} (hvs : ∀ v ∈ vs, P v) :
    mixFrame c' i (vs.map f) = ((mixFrame c i vs).1, (mixFrame c i vs).2.map f) := by
  refine Prod.ext ?_ ?_
  · rw [mixFrame_sample, mixFrame_sample, List.map_map]
    exact congrArg List.sum (List.map_congr_left fun v hv => h.frameSample i (hvs v hv))
  · simp only [mixFrame_voices, List.map_map]
    exact List.map_congr_left fun v hv => h.frameVoice i (hvs v hv)

theorem FramesAgree.renderLoop (h : FramesAgree c c' f P) (n i : Nat) {vs : List (Voice α)} (out : OutMem)
    (hvs : ∀ v ∈ vs, P v) :
    renderLoop c' n i (vs.map f) out = ((renderLoop c n i vs out).1.map f, (renderLoop c n i vs out).2) := by
  induction n generalizing i vs out with
  | zero => rfl
  | succ n ih =>
    have hnext : ∀ v ∈ (Machine.mixFrame c i vs).2, P v := by
      rw [mixFrame_voices, List.forall_mem_map]
      exact fun v hv => h.keeps i v (hvs v hv)
    rw [Machine.renderLoop, Machine.renderLoop, h.mixFrame i hvs, outWrite, outWrite, h.toF32]
    exact ih (i + 1) _ hnext

end RenderAgrees

/-! ## NoiseHash and FadeGain behind a noise gain of 0 and no fade mark (R162, R163) -/

section Unread
variable {α : Type} [Field α] [LinearOrder α] {N N' : Numerics α}

omit [Field α] [LinearOrder α] in
theorem eq_of_sameFunctions (h : sameFunctions N N') :
    N' = { N with noiseHash := N'.noiseHash, fadeGain := N'.fadeGain, ofRat := N'.ofRat } := by
  obtain ⟨hpi, hsin, hexp, hexp2, hfloor, hF32⟩ := h
  rw [hpi, hsin, hexp, hexp2, hfloor, hF32]

/-- Of the two functions only `NoiseHash` enters the filter's input, times the noise gain, and only `FadeGain` the fade
factor, which is 1 without a mark. -/
theorem voiceStep_of_sameFunctions (h : sameFunctions N N') {k : Kind} {s : State α} (hgain : s.cfg.noiseGain = 0)
    (pl : Plan α) {v : Voice α} (hv : v.fade = none) :
    voiceStep (s.ctx N' k) pl v = voiceStep (s.ctx N k) pl v := by
  have hinput : ∀ osc noi : α, mixInput s.cfg osc noi = osc * s.cfg.oscGain := fun osc noi => by
    rw [mixInput, hgain, mul_zero, add_zero]
  rw [voiceStep, voiceStep, fadeFactor_of_not_fading hv, fadeFactor_of_not_fading hv, eq_of_sameFunctions h]
  simp only [State.ctx, hinput]
  rfl

theorem makePlan_of_sameFunctions (h : sameFunctions N N') (k : Kind) (s : State α) (v : Voice α) (o : Nat) :
    makePlan (s.ctx N' k) v o = makePlan (s.ctx N k) v o := by
  rw [eq_of_sameFunctions h]
  rfl

theorem voiceSample_of_sameFunctions (h : sameFunctions N N') {k : Kind} {s : State α} (hgain : s.cfg.noiseGain = 0)
    (i cur : Nat) {v : Voice α} (hv : v.fade = none) :
    voiceSample (s.ctx N' k) i cur v = voiceSample (s.ctx N k) i cur v := by
  rw [voiceSample, voiceSample, makePlan_of_sameFunctions h, voiceStep_of_sameFunctions h hgain _ hv]
  rfl

theorem framesAgree_of_sameFunctions (h : sameFunctions N N') (k : Kind) {s : State α} (hgain : s.cfg.noiseGain = 0) :
    FramesAgree (s.ctx N k) (s.ctx N' k) id fun v => v.fade = none where
  toF32 := by
    obtain ⟨-, -, -, -, -, hF32⟩ := h
    exact hF32.symm
  keeps _ _ hv := (frameVoice_fade ..).trans hv
  cur _ := rfl
  voiceSample i cur _ hv := voiceSample_of_sameFunctions h hgain i cur hv

end Unread

/-- Settles O35: every frame of every slot agrees. -/
theorem noiseAndFadeUnread : Obligations.NoiseAndFadeUnread := by
  intro α _ _ N N' k n s hsame hgain hfade
  have hloop := (framesAgree_of_sameFunctions hsame k hgain).renderLoop n 0 s.out hfade
  simp only [List.map_id] at hloop
  rw [renderWith, renderWith, hloop]

/-! ## The velocities are not read (R32, R165) -/

/-- The scan of R187 reads the counters only. -/
theorem selectVoice_map_of_cur_eq {α : Type} {f : Voice α → Voice α} (hf : ∀ v, (f v).cur = v.cur)
    (vs : List (Voice α)) : selectVoice (vs.map f) = selectVoice vs := by
  cases vs with
  | nil => rfl
  | cons v vs =>
    rw [List.map_cons, selectVoice, selectVoice, hf]
    exact selectFrom_map_of_cur_eq hf ..

section EraseVel
variable {α : Type}

/-- The slot with `VEL` replaced by 0. -/
def Voice.eraseVel [Zero α] (v : Voice α) : Voice α := { v with vel := 0 }

/-- Two outcomes that differ at most in stored velocities. -/
def SameButVel [Zero α] (r r' : Result α) : Prop := mapNext eraseVel r = mapNext eraseVel r'

variable [Zero α] {s : State α}

@[simp] theorem eraseVel_voices (s : State α) : (eraseVel s).voices = s.voices.map Voice.eraseVel := rfl

theorem sameButVel_next {t t' : State α} (h : eraseVel t = eraseVel t') : SameButVel (.next t) (.next t') :=
  congrArg Host.Outcome.next h

@[simp] theorem eraseVel_out (s : State α) : (eraseVel s).out = s.out := rfl

@[simp] theorem eraseVel_ctx (N : Numerics α) (k : Kind) (s : State α) : (eraseVel s).ctx N k = s.ctx N k := rfl

theorem map_eraseVel_map_eraseVel (vs : List (Voice α)) :
    (vs.map Voice.eraseVel).map Voice.eraseVel = vs.map Voice.eraseVel := by
  rw [List.map_map]
  rfl

theorem eraseVel_eraseVel (s : State α) : eraseVel (eraseVel s) = eraseVel s :=
  congrArg (fun vs => { s with voices := vs }) (map_eraseVel_map_eraseVel s.voices)

/-- An update that commutes with the erasing. -/
theorem sameButVel_of_commutes {g : State α → State α} (hg : g (eraseVel s) = eraseVel (g s)) :
    SameButVel (.next (g (eraseVel s))) (.next (g s)) :=
  sameButVel_next (by rw [hg, eraseVel_eraseVel])

theorem SameButVel.inDomain {r r' : Result α} (ok : Bool) (h : SameButVel r r') :
    SameButVel (inDomain ok r) (inDomain ok r') := by
  cases ok with
  | true => exact h
  | false => rfl

theorem SameButVel.withSlot {slot : Nat} {f f' : Voice α → Result α} (h : ∀ v, SameButVel (f v.eraseVel) (f' v)) :
    SameButVel (withSlot (eraseVel s) slot f) (withSlot s slot f') := by
  rw [Machine.withSlot, Machine.withSlot, eraseVel_voices, List.getElem?_map]
  cases s.voices[slot]? with
  | none => rfl
  | some v => exact h v

theorem SameButVel.withSounding {slot : Nat} {f f' : Voice α → Nat → Result α}
    (h : ∀ v c, SameButVel (f v.eraseVel c) (f' v c)) :
    SameButVel (withSounding (eraseVel s) slot f) (withSounding s slot f') := by
  refine .withSlot fun v => ?_
  have hcur : v.eraseVel.cur = v.cur := rfl
  rw [hcur]
  cases v.cur with
  | none => rfl
  | some c => exact h v c

theorem eraseVel_setVoice (slot : Nat) (v : Voice α) (s : State α) :
    (eraseVel s).setVoice slot v.eraseVel = eraseVel (s.setVoice slot v) := by
  simp [State.setVoice, eraseVel, Voice.eraseVel]

/-- A unit operation's answer for a slot, velocities aside. -/
theorem sameButVel_setVoice (slot : Nat) (r : α × Voice α) (s : State α) :
    SameButVel (.next (((eraseVel s).setVoice slot r.2.eraseVel).setResult r.1))
      (.next ((s.setVoice slot r.2).setResult r.1)) := by
  rw [eraseVel_setVoice]
  exact sameButVel_of_commutes (g := (·.setResult r.1)) rfl

/-! ### The note commands -/

theorem markFading_eraseVel (note : Note) (v : Voice α) :
    markFading note v.eraseVel = (markFading note v).eraseVel := by
  have hactive : v.eraseVel.activeOn note = v.activeOn note := rfl
  rw [markFading, markFading, hactive]
  split <;> rfl

/-- The new voice is the same whatever the old ones' velocities. -/
theorem noteOnVoices_eraseVel (par : Params α) (note : Note) (vel : α) (vs : List (Voice α)) :
    (noteOnVoices par note vel (vs.map Voice.eraseVel)).map Voice.eraseVel =
      (noteOnVoices par note vel vs).map Voice.eraseVel := by
  have hmarked : (vs.map Voice.eraseVel).map (markFading note) = (vs.map (markFading note)).map Voice.eraseVel := by
    simp [markFading_eraseVel]
  have hchoice : selectVoice ((vs.map (markFading note)).map Voice.eraseVel) = selectVoice (vs.map (markFading note)) :=
    selectVoice_map_of_cur_eq (f := Voice.eraseVel) (fun _ => rfl) _
  rw [noteOnVoices, noteOnVoices, hmarked, hchoice, List.map_set, List.map_set, map_eraseVel_map_eraseVel]

theorem activeSlotFrom_eraseVel (note : Note) (i : Nat) (vs : List (Voice α)) :
    activeSlotFrom note i (vs.map Voice.eraseVel) =
      (activeSlotFrom note i vs).map fun av => (av.1, av.2.eraseVel) := by
  induction vs generalizing i with
  | nil => rfl
  | cons v vs ih =>
    have hactive : v.eraseVel.activeOn note = v.activeOn note := rfl
    rw [List.map_cons, activeSlotFrom, activeSlotFrom, hactive, ih]
    split <;> rfl

theorem noteOff_eraseVel (note : Note) (s : State α) : noteOff note (eraseVel s) = eraseVel (noteOff note s) := by
  have hslot : activeSlot note (eraseVel s).voices = (activeSlot note s.voices).map fun av => (av.1, av.2.eraseVel) :=
    activeSlotFrom_eraseVel note 0 s.voices
  rw [noteOff, noteOff, hslot]
  cases activeSlot note s.voices with
  | none => rfl
  | some av =>
    obtain ⟨a, v⟩ := av
    have hrel : v.eraseVel.rel = v.rel := rfl
    simp only [Option.map_some, hrel]
    cases v.rel with
    | none => exact eraseVel_setVoice a { v with rel := v.cur } s
    | some _ => rfl

end EraseVel

section VelUnread
variable {α : Type} [Field α] [LinearOrder α] {s : State α}

@[simp] theorem kind?_eraseVel (s : State α) : (eraseVel s).kind? = s.kind? := by
  simp [State.kind?, State.configOk, eraseVel]

theorem SameButVel.withConfig {f f' : Kind → Result α} (h : ∀ k, SameButVel (f k) (f' k)) :
    SameButVel (withConfig (eraseVel s) f) (withConfig s f') := by
  rw [Machine.withConfig, Machine.withConfig, kind?_eraseVel]
  cases s.kind? with
  | none => rfl
  | some k => exact h k

theorem eraseVel_noteOn_eraseVel (note : Note) (opd : Word) :
    eraseVel (noteOn note opd (eraseVel s)) = eraseVel (noteOn note opd s) := by
  cases hvel : (velocityOf opd : Option α) with
  | none => rw [noteOn_refused hvel, noteOn_refused hvel]; exact eraseVel_eraseVel (refuseCommand .badOperand s)
  | some vel =>
    rw [noteOn_of_velocity hvel, noteOn_of_velocity hvel]
    exact congrArg (fun vs => { s with voices := vs }) (noteOnVoices_eraseVel s.par note vel s.voices)

theorem framesAgree_eraseVel (c : Ctx α) : FramesAgree c c Voice.eraseVel fun _ => True where
  toF32 := rfl
  keeps _ _ _ := trivial
  cur _ := rfl
  voiceSample _ _ _ _ := rfl

theorem mixFrame_eraseVel (c : Ctx α) (i : Nat) (vs : List (Voice α)) :
    mixFrame c i (vs.map Voice.eraseVel) = ((mixFrame c i vs).1, (mixFrame c i vs).2.map Voice.eraseVel) :=
  (framesAgree_eraseVel c).mixFrame i fun _ _ => trivial

theorem renderWith_eraseVel (N : Numerics α) (k : Kind) (n : Nat) (s : State α) :
    renderWith N k n (eraseVel s) = eraseVel (renderWith N k n s) := by
  have hloop := (framesAgree_eraseVel (s.ctx N k)).renderLoop n 0 s.out fun v (_ : v ∈ s.voices) => trivial
  rw [renderWith, eraseVel_ctx, eraseVel_out, eraseVel_voices, hloop]
  simp only [eraseVel, renderWith, List.map_map]
  rfl

theorem runWave_sameButVel (N : Numerics α) (k : Kind) (s : State α) :
    SameButVel (runWave N k (eraseVel s)) (runWave N k s) :=
  .withConfig fun _ => .inDomain _ (sameButVel_of_commutes rfl)

theorem execOn_sameButVel (N : Numerics α) (i : Instr) (s : State α) :
    SameButVel (execOn N i (eraseVel s)) (execOn N i s) := by
  cases i with
  | noteOn note opd => exact .withConfig fun _ => sameButVel_next (eraseVel_noteOn_eraseVel note opd)
  | noteOff note => exact .withConfig fun _ => sameButVel_of_commutes (noteOff_eraseVel note s)
  | render count => exact .withConfig fun k => sameButVel_of_commutes (renderWith_eraseVel N k count.toNat s)
  | oscSquare => exact runWave_sameButVel N .square s
  | oscSaw => exact runWave_sameButVel N .saw s
  | oscTriangle => exact runWave_sameButVel N .triangle s
  | oscSine => exact runWave_sameButVel N .sine s
  | oscTable => exact .withConfig fun _ => .inDomain _ (runWave_sameButVel N .table s)
  | oscStateless _ _ _ | oscNoise _ _ | envSample _ _ _ _ _ _ =>
    exact .withConfig fun _ => .inDomain _ (sameButVel_of_commutes rfl)
  | oscAcc slot kind period =>
    refine .withConfig fun _ => .inDomain _ (.withSlot fun v => ?_)
    exact sameButVel_setVoice slot (oscAcc N s.par.initPhase s.table kind (N.ofRat period) v) s
  | lpfStep slot input cutoff sampleRate =>
    refine .withConfig fun _ => .inDomain _ (.withSlot fun v => ?_)
    exact sameButVel_setVoice slot (lpfStep N (N.ofRat input) (N.ofRat cutoff) (N.ofRat sampleRate) v) s
  | plan _ _ =>
    exact .withConfig fun _ => .inDomain _ (.withSounding fun _ _ => sameButVel_of_commutes rfl)
  | voiceSample slot frame =>
    refine .withConfig fun k => .inDomain _ (.withSounding fun v c => ?_)
    exact sameButVel_setVoice slot (voiceSample (s.ctx N k) frame c v)
      (s.setPlan (makePlan (s.ctx N k) v (frameOffset s.par c frame)))
  | mixFrame frame =>
    refine .withConfig fun k => .inDomain _ (sameButVel_next ?_)
    rw [eraseVel_voices, eraseVel_ctx, mixFrame_eraseVel]
    exact eraseVel_eraseVel ({ s with voices := (mixFrame (s.ctx N k) frame s.voices).2 }.setResult _)

end VelUnread

/-- Settles O55: no guard and no update reads a velocity. -/
theorem velocityUnread : Obligations.VelocityUnread := by
  intro i s
  have h := execOn_sameButVel freeNum i s
  rwa [execOn_freeNum, execOn_freeNum] at h

end Sys2Proof.Machine

/-! ## MIX.FRAME, slot by slot, and RENDER, frame by frame (R170, R172, R174) -/

namespace Sys2Proof.Machine

/-- Well-formedness reads of the slots only how many they are (R8, R9). -/
theorem kind?_eq_some_of_congr {α : Type} [Field α] [LinearOrder α] {s t : State α} {k : Kind} (hk : s.kind? = some k)
    (hpar : t.par = s.par) (hcfg : t.cfg = s.cfg) (htable : t.table = s.table)
    (hlen : t.voices.length = s.voices.length) : t.kind? = some k := by
  rwa [State.kind?, State.configOk, hpar, hcfg, htable, hlen]

/-- The slots after RENDER, as the source nests its loops (R171). -/
theorem renderWith_voices_eq_map {α : Type} [Field α] [LinearOrder α] (N : Numerics α) (k : Kind) (n : Nat)
    (s : State α) :
    (renderWith N k n s).voices = s.voices.map fun v => advance s.par n (voiceRun (s.ctx N k) n 0 v).2 := by
  rw [renderWith_voices, renderLoop_voices, List.map_map]
  rfl

section IssuedMix
variable {frame cur : Nat} {k : Kind} {v : Voice ℚ} {vs : List (Voice ℚ)} {s : State}

theorem mixVoices_cons_of_free {c : Ctx ℚ} (hcur : v.cur = none) (acc : ℚ) :
    mixVoices c frame acc (v :: vs) = ((mixVoices c frame acc vs).1, v :: (mixVoices c frame acc vs).2) := by
  simp [mixVoices, hcur]

theorem mixVoices_cons_of_cur {c : Ctx ℚ} (hcur : v.cur = some cur) (acc : ℚ) :
    mixVoices c frame acc (v :: vs) =
      ((mixVoices c frame (acc + (voiceSample c frame cur v).1) vs).1,
        (voiceSample c frame cur v).2 :: (mixVoices c frame (acc + (voiceSample c frame cur v).1) vs).2) := by
  simp [mixVoices, hcur]

theorem issueSlots_cons_of_free {slot : Nat} (hv : s.voices[slot]? = some v) (hcur : v.cur = none) (rest : List Nat)
    (acc : ℚ) : issueSlots frame (slot :: rest) acc s = issueSlots frame rest acc s := by
  simp [issueSlots, hv, Voice.sounding, hcur]

theorem issueSlots_cons_of_cur {slot : Nat} {t : State} (hv : s.voices[slot]? = some v) (hcur : v.cur = some cur)
    (ht : exec (.voiceSample slot frame) s = .next t) (rest : List Nat) (acc : ℚ) :
    issueSlots frame (slot :: rest) acc s = issueSlots frame rest (acc + t.seq.result) t := by
  simp [issueSlots, hv, Voice.sounding, hcur, ht, nextOf]

/-- VOICE.SAMPLE on a sounding slot answers its sample and the slot after it (R160), under a configuration as before. -/
theorem exec_voiceSample {slot : Nat} (hk : s.kind? = some k) (hf : frame < Config.bufMax)
    (hv : s.voices[slot]? = some v) (hcur : v.cur = some cur) :
    ∃ t, exec (.voiceSample slot frame) s = .next t ∧
      t.seq.result = (voiceSample (s.ctx freeNum k) frame cur v).1 ∧
      t.voices = s.voices.set slot (voiceSample (s.ctx freeNum k) frame cur v).2 ∧
      t.ctx freeNum k = s.ctx freeNum k ∧ t.kind? = some k := by
  refine ⟨_, execVoiceSample_eq_next.mpr ⟨k, hk, decide_eq_true hf, v, cur, hv, hcur, rfl⟩, rfl, rfl, rfl, ?_⟩
  exact kind?_eq_some_of_congr hk rfl rfl rfl (List.length_set ..)

/-- From slot `ps.length` on: the slots before it have had their turn and stay as they are. -/
theorem issueSlots_eq_mixVoices (hf : frame < Config.bufMax) (acc : ℚ) (ps : List (Voice ℚ)) (hk : s.kind? = some k)
    (hvs : s.voices = ps ++ vs) :
    ∃ t, issueSlots frame (List.range' ps.length vs.length) acc s =
        some ((mixVoices (s.ctx freeNum k) frame acc vs).1, t) ∧
      t.voices = ps ++ (mixVoices (s.ctx freeNum k) frame acc vs).2 := by
  induction vs generalizing s ps acc with
  | nil => exact ⟨s, rfl, hvs⟩
  | cons v vs ih =>
    have hv : s.voices[ps.length]? = some v := by simp [hvs]
    rw [List.length_cons, List.range'_succ]
    cases hcur : v.cur with
    | none =>
      rw [issueSlots_cons_of_free hv hcur, mixVoices_cons_of_free hcur]
      simpa using ih acc (ps ++ [v]) hk (by simp [hvs])
    | some cur =>
      obtain ⟨t, ht, hresult, hvoices, hctx, hkt⟩ := exec_voiceSample hk hf hv hcur
      rw [issueSlots_cons_of_cur hv hcur ht, mixVoices_cons_of_cur hcur, hresult, ← hctx]
      simpa using ih _ (ps ++ [(voiceSample (t.ctx freeNum k) frame cur v).2]) hkt (by simp [hvoices, hvs, hctx])

end IssuedMix

/-- Settles O28: the slots are issued from the first one on, and each goes through the frame by itself. -/
theorem mixFrameIsItsVoices : Obligations.MixFrameIsItsVoices := by
  intro frame s hc hf
  obtain ⟨k, hk⟩ := kind?_of_configOk hc
  obtain ⟨t, hissue, hvoices⟩ := issueSlots_eq_mixVoices hf 0 [] hk rfl
  rw [List.length_nil, ← List.range_eq_range'] at hissue
  exact ⟨_, t, _, hissue, execMixFrame_eq_next.mpr ⟨k, hk, decide_eq_true hf, rfl⟩, rfl, hvoices.symm, rfl⟩

/-- MIX.FRAME and OutWrite for each frame are the loop of RENDER; of the unit latches nothing is said. -/
theorem issueFrames_eq_renderLoop {k : Kind} {s : State} (n i : Nat) (hk : s.kind? = some k)
    (hn : i + n ≤ Config.bufMax) :
    ∃ q, issueFrames n i s = some { s with
      voices := (renderLoop (s.ctx freeNum k) n i s.voices s.out).1
      out := (renderLoop (s.ctx freeNum k) n i s.voices s.out).2
      seq := q } := by
  induction n generalizing s i with
  | zero => exact ⟨s.seq, rfl⟩
  | succ n ih =>
    have hexec := execMixFrame_eq_next.mpr ⟨k, hk, decide_eq_true (show i < Config.bufMax by omega), rfl⟩
    simp only [issueFrames, exec, hexec, nextOf, Option.bind_some]
    exact ih (i + 1) (kind?_eq_some_of_congr hk rfl rfl rfl (by simp)) (by omega)

/-- Settles O29: every frame number of a RENDER is below `BUF_MAX`. -/
theorem renderIsItsFrames : Obligations.RenderIsItsFrames := by
  intro count s hc
  obtain ⟨k, hk⟩ := kind?_of_configOk hc
  have hcount : 0 + count.toNat ≤ Config.bufMax := by
    rw [Nat.zero_add]
    exact Nat.le_pred_of_lt count.isLt
  obtain ⟨q, hissue⟩ := issueFrames_eq_renderLoop count.toNat 0 hk hcount
  exact ⟨_, hissue, execRender_eq_next.mpr ⟨k, hk, rfl⟩⟩

/-- Settles O30: the loop takes each slot through the frames by itself and writes the entries of its frames alone. -/
theorem renderVoiceByVoice : Obligations.RenderVoiceByVoice := by
  intro count s k hk
  refine ⟨_, execRender_eq_next.mpr ⟨k, hk, rfl⟩, fun slot => ?_, fun i hi => renderWith_read hi, fun j hj => ?_, rfl⟩
  · rw [renderWith_voices_eq_map, List.getElem?_map]
  · exact renderLoop_read_outside _ _ 0 j _ _ (.inr (by omega))

/-! ## A RENDER in two parts, and a RENDER of no frames (R177, R179) -/

@[simp] theorem ctx_par {α : Type} (N : Numerics α) (k : Kind) (s : State α) : (s.ctx N k).par = s.par := rfl

section Advance
variable {α : Type} {par : Params α} {v : Voice α}

theorem satAdd_zero {c : Nat} (hc : c ≤ frameMax par) : satAdd par c 0 = c := min_eq_left hc

theorem satAdd_satAdd (c a b : Nat) : satAdd par (satAdd par c a) b = satAdd par c (a + b) := by
  simp only [satAdd]
  omega

theorem advance_zero (hv : ∀ c, v.cur = some c → c ≤ frameMax par) : advance par 0 v = v := by
  have hcur : (v.cur.map fun c => satAdd par c 0) = v.cur := by
    cases hcur : v.cur with
    | none => rfl
    | some c => rw [Option.map_some, satAdd_zero (hv c hcur)]
  rw [advance, hcur]

theorem advance_advance (a b : Nat) (v : Voice α) : advance par b (advance par a v) = advance par (a + b) v := by
  simp [advance, Function.comp_def, satAdd_satAdd]

end Advance

section Split
variable {α : Type} [Field α] [LinearOrder α]

/-- The frame offset is all a frame reads of the counter and of its own number (R156). -/
theorem voiceSample_advance (c : Ctx α) (a i cur : Nat) (v : Voice α) :
    voiceSample c i (satAdd c.par cur a) (advance c.par a v) =
      ((voiceSample c (a + i) cur v).1, advance c.par a (voiceSample c (a + i) cur v).2) := by
  rw [voiceSample, frameOffset, satAdd_satAdd]
  rfl

theorem frameSample_advance (c : Ctx α) (a i : Nat) (v : Voice α) :
    frameSample c i (advance c.par a v) = frameSample c (a + i) v := by
  cases hcur : v.cur with
  | none => rw [frameSample_of_free hcur, frameSample_of_free (by simp [hcur])]
  | some cur =>
    rw [frameSample_of_cur hcur, frameSample_of_cur (cur := satAdd c.par cur a) (by simp [hcur]), voiceSample_advance]

theorem frameVoice_advance (c : Ctx α) (a i : Nat) (v : Voice α) :
    frameVoice c i (advance c.par a v) = advance c.par a (frameVoice c (a + i) v) := by
  cases hcur : v.cur with
  | none => rw [frameVoice_of_free c _ hcur, frameVoice_of_free c i (by simp [hcur])]
  | some cur =>
    rw [frameVoice_of_cur hcur, frameVoice_of_cur (cur := satAdd c.par cur a) (by simp [hcur]), voiceSample_advance]

/-- A slot whose counter is `a` frames on runs through the frames `i, ..` as the slot itself through `a + i, ..`. -/
theorem voiceRun_advance (c : Ctx α) (a n i : Nat) (v : Voice α) :
    voiceRun c n i (advance c.par a v) = ((voiceRun c n (a + i) v).1, advance c.par a (voiceRun c n (a + i) v).2) := by
  induction n generalizing i v with
  | zero => rfl
  | succ n ih => rw [voiceRun, voiceRun, frameSample_advance, frameVoice_advance, ih, Nat.add_assoc]

@[simp] theorem voiceRun_length (c : Ctx α) (n i : Nat) (v : Voice α) : (voiceRun c n i v).1.length = n := by
  induction n generalizing i v with
  | zero => rfl
  | succ n ih => rw [voiceRun, List.length_cons, ih]

theorem voiceRun_add (c : Ctx α) (a b i : Nat) (v : Voice α) :
    voiceRun c (a + b) i v =
      ((voiceRun c a i v).1 ++ (voiceRun c b (i + a) (voiceRun c a i v).2).1,
        (voiceRun c b (i + a) (voiceRun c a i v).2).2) := by
  induction a generalizing i v with
  | zero => simp [voiceRun]
  | succ a ih =>
    rw [Nat.succ_add, voiceRun, ih, Nat.succ_add_eq_add_succ i a]
    rfl

/-- A run of `b` frames, started from the slot a run of `a` frames left and advanced, is the last `b` frames of a run
of `a + b`. -/
theorem voiceRun_second (c : Ctx α) (a b : Nat) (v : Voice α) :
    voiceRun c b 0 (advance c.par a (voiceRun c a 0 v).2) =
      ((voiceRun c (a + b) 0 v).1.drop a, advance c.par a (voiceRun c (a + b) 0 v).2) := by
  rw [voiceRun_advance, voiceRun_add, Nat.add_zero, Nat.zero_add, List.drop_left' (voiceRun_length c a 0 v)]

variable {N : Numerics α} {k : Kind} {s : State α}

@[simp] theorem renderWith_ctx (n : Nat) : (renderWith N k n s).ctx N k = s.ctx N k := rfl

theorem renderWith_renderWith_voices (a b : Nat) :
    (renderWith N k b (renderWith N k a s)).voices = (renderWith N k (a + b) s).voices := by
  simp only [renderWith_voices_eq_map, List.map_map]
  refine List.map_congr_left fun v _ => ?_
  have hsecond := voiceRun_second (s.ctx N k) a b v
  simpa [advance_advance] using congrArg (fun r => advance s.par b r.2) hsecond

theorem renderWith_read_first {a b i : Nat} (hi : i < a) :
    (renderWith N k a s).out.read i = (renderWith N k (a + b) s).out.read i := by
  rw [renderWith_read hi, renderWith_read (by omega : i < a + b)]
  simp [voiceRun_add, List.getElem?_append_left, hi]

theorem renderWith_read_second {a b i : Nat} (hi : i < b) :
    (renderWith N k b (renderWith N k a s)).out.read i = (renderWith N k (a + b) s).out.read (a + i) := by
  rw [renderWith_read hi, renderWith_read (by omega : a + i < a + b), renderWith_voices_eq_map, List.map_map]
  congr 3
  refine List.map_congr_left fun v _ => ?_
  have hsecond := voiceRun_second (s.ctx N k) a b v
  simpa using congrArg (fun r => r.1[i]?.getD 0) hsecond

end Split

/-- Settles O31: no frame is written, and a counter at most `FRAME_MAX` advanced by 0 is itself. -/
theorem renderNothing : Obligations.RenderNothing := by
  intro s hc hcur
  obtain ⟨k, hk⟩ := kind?_of_configOk hc
  have hvoices : s.voices.map (advance s.par 0) = s.voices :=
    (List.map_congr_left fun v hv => advance_zero (hcur v hv)).trans (List.map_id' _)
  have hrender : renderWith freeNum k 0 s = { s with outCount := 0 } := by
    rw [renderWith, renderLoop, hvoices]
  exact execRender_eq_next.mpr ⟨k, hk, hrender.symm⟩

/-- Settles O33: a slot's second run starts `a` frames on, where the first one left it. -/
theorem renderSplits : Obligations.RenderSplits := by
  intro a b ab s t u w hab ht hu hw
  obtain ⟨k, hk, rfl⟩ := execRender_eq_next.mp ht
  have hka : (renderWith freeNum k a.toNat s).kind? = some k :=
    kind?_eq_some_of_congr hk rfl rfl rfl (by rw [renderWith_voices_eq_map, List.length_map])
  obtain ⟨k', hk', rfl⟩ := execRender_eq_next.mp hu
  obtain ⟨k'', hk'', rfl⟩ := execRender_eq_next.mp hw
  obtain rfl : k' = k := Option.some.inj (hk'.symm.trans hka)
  obtain rfl : k'' = k' := Option.some.inj (hk''.symm.trans hk)
  rw [hab]
  exact ⟨renderWith_renderWith_voices .., fun i hi => renderWith_read_first hi, fun i hi => renderWith_read_second hi⟩

end Sys2Proof.Machine

/-! ## The velocity operand of NOTE_ON (R186) -/

namespace Sys2Proof.Machine

section Velocity
variable {α : Type} [Field α]

theorem f32Value_one [CharZero α] : f32Value 0x3F800000 = (1 : α) := by
  rw [show 0x3F800000 = 126 * 8388608 + 8388608 from rfl, f32Value_add (by omega) (by omega)]
  norm_num

variable [LinearOrder α]

theorem velocityOf_eq_some {opd : Word} {v : α} :
    velocityOf opd = some v ↔ f32Decode opd = .finite v ∧ 0 ≤ v ∧ v ≤ 1 := by
  unfold velocityOf
  split
  next u hu =>
    rw [hu, F32.finite.injEq, Option.ite_none_right_eq_some, Option.some.injEq, and_comm]
    exact and_congr_right fun huv => huv ▸ Iff.rfl
  next hu => simp [hu]
  next hu => simp [hu]

variable [IsStrictOrderedRing α]

theorem velocityOf_negZero : velocityOf 0x80000000#32 = some (0 : α) := by
  have hdecode : f32Decode 0x80000000#32 = .finite (0 : α) := by
    simpa [f32Word] using f32Decode_f32Word (α := α) (neg := true) (m := 0) (by omega)
  exact velocityOf_eq_some.mpr ⟨hdecode, le_rfl, zero_le_one⟩

/-- The patterns of the numbers in `[0,1]`: the order of the patterns is the order of their values. -/
theorem velocityOf_isSome {opd : Word} :
    (velocityOf opd : Option α).isSome = true ↔ opd.toNat ≤ 0x3F800000 ∨ opd = 0x80000000#32 := by
  constructor
  · intro h
    obtain ⟨v, hv⟩ := Option.isSome_iff_exists.mp h
    obtain ⟨hdecode, hv0, hv1⟩ := velocityOf_eq_some.mp hv
    obtain ⟨neg, m, hm, rfl, rfl⟩ := f32Decode_eq_finite hdecode
    have hm' : m < 0x80000000 := by omega
    cases neg with
    | false =>
      left
      rw [f32Word_toNat hm']
      exact f32Value_strictMono.le_iff_le.mp (hv1.trans f32Value_one.ge)
    | true =>
      right
      have hval : f32Value m ≤ (f32Value 0 : α) := by simpa using hv0
      exact (f32Word_eq_negZero_iff hm').mpr ⟨rfl, Nat.le_zero.mp (f32Value_strictMono.le_iff_le.mp hval)⟩
  · rintro (h | rfl)
    · have hword : opd = f32Word false opd.toNat := by simp [f32Word]
      have hval : f32Value opd.toNat ≤ (1 : α) := f32Value_one (α := α) ▸ f32Value_strictMono.monotone h
      rw [hword, velocityOf_eq_some.mpr ⟨f32Decode_f32Word (by omega), f32Value_nonneg _, hval⟩]
      rfl
    · rw [velocityOf_negZero]
      rfl

end Velocity

/-- Settles O5: the patterns by the order of their values, and the refusal of R201. -/
theorem velocityCheck : Obligations.VelocityCheck := by
  refine ⟨fun _ => velocityOf_isSome, velocityOf_negZero, fun _ _ => velocityOf_eq_some.mp, fun _ _ _ hc h => ?_⟩
  exact execNoteOn_eq_next.mpr ⟨hc, (noteOn_refused h).symm⟩

end Sys2Proof.Machine

/-! ## The voice SelectVoice chooses (R187) -/

namespace Sys2Proof.Machine

section Select
variable {α : Type} {v w : Voice α}

/-- `key` of R187: an unset `CUR` is `+inf`. -/
def Voice.key (v : Voice α) : WithTop ℕ :=
  match v.cur with
  | some c => c
  | none => ⊤

theorem Voice.key_of_cur {c : Nat} (h : v.cur = some c) : v.key = c := by rw [Voice.key, h]

theorem Voice.key_of_free (h : v.cur = none) : v.key = ⊤ := by rw [Voice.key, h]

theorem Voice.key_le_iff :
    v.key ≤ w.key ↔ w.cur = none ∨ ∃ a b, w.cur = some a ∧ v.cur = some b ∧ b ≤ a := by
  cases hv : v.cur <;> cases hw : w.cur <;> simp [Voice.key, hv, hw]

theorem Voice.key_lt_iff :
    v.key < w.key ↔ ∃ b, v.cur = some b ∧ (w.cur = none ∨ ∃ a, w.cur = some a ∧ b < a) := by
  cases hv : v.cur <;> cases hw : w.cur <;> simp [Voice.key, hv, hw]

theorem keyGreater_iff : keyGreater v.cur w.cur = true ↔ w.key < v.key := by
  cases hv : v.cur <;> cases hw : w.cur <;> simp [Voice.key, keyGreater, hv, hw]

/-- R187: slot `c` holds `w`, whose key is the greatest, and is the lowest such slot. -/
structure IsOldest (vs : List (Voice α)) (c : Nat) (w : Voice α) : Prop where
  get : vs[c]? = some w
  greatest : ∀ v ∈ vs, v.key ≤ w.key
  lowest : ∀ j v, j < c → vs[j]? = some v → v.key < w.key

theorem IsOldest.lt_length {vs : List (Voice α)} {c : Nat} (h : IsOldest vs c w) : c < vs.length :=
  (List.getElem?_eq_some_iff.mp h.get).1

theorem isOldest_singleton (v : Voice α) : IsOldest [v] 0 v where
  get := rfl
  greatest u hu := by rw [List.mem_singleton.mp hu]
  lowest j u hj := absurd hj j.not_lt_zero

/-- A later slot with a strictly greater key is the new candidate. -/
theorem IsOldest.append_greater {vs : List (Voice α)} {c : Nat} (h : IsOldest vs c w) (hv : w.key < v.key) :
    IsOldest (vs ++ [v]) vs.length v where
  get := List.getElem?_concat_length
  greatest u hu := by
    rcases List.mem_append.mp hu with hu | hu
    · exact (h.greatest u hu).trans hv.le
    · rw [List.mem_singleton.mp hu]
  lowest j u hj hu := by
    rw [List.getElem?_append_left hj] at hu
    exact (h.greatest u (List.mem_of_getElem? hu)).trans_lt hv

/-- A later slot whose key is no greater leaves the candidate. -/
theorem IsOldest.append_le {vs : List (Voice α)} {c : Nat} (h : IsOldest vs c w) (hv : v.key ≤ w.key) :
    IsOldest (vs ++ [v]) c w where
  get := (List.getElem?_append_left h.lt_length).trans h.get
  greatest u hu := by
    rcases List.mem_append.mp hu with hu | hu
    · exact h.greatest u hu
    · rwa [List.mem_singleton.mp hu]
  lowest j u hj hu := by
    rw [List.getElem?_append_left (hj.trans h.lt_length)] at hu
    exact h.lowest j u hj hu

/-- The scan carries on from the oldest of the slots already seen. -/
theorem isOldest_selectFrom {seen : List (Voice α)} {c : Nat} (h : IsOldest seen c w) (vs : List (Voice α)) :
    ∃ u, IsOldest (seen ++ vs) (selectFrom c w.cur seen.length vs) u := by
  induction vs generalizing seen c w with
  | nil => exact ⟨w, by rwa [List.append_nil]⟩
  | cons v vs ih =>
    rw [selectFrom, List.append_cons]
    have hlen : seen.length + 1 = (seen ++ [v]).length := by simp
    rw [hlen]
    split
    next hgreater => exact ih (h.append_greater (keyGreater_iff.mp hgreater))
    next hle => exact ih (h.append_le (not_lt.mp (keyGreater_iff.not.mp hle)))

theorem isOldest_selectVoice {vs : List (Voice α)} (h : vs ≠ []) : ∃ w, IsOldest vs (selectVoice vs) w := by
  cases vs with
  | nil => exact absurd rfl h
  | cons v vs => exact isOldest_selectFrom (isOldest_singleton v) vs

theorem selectVoice_lt_length {vs : List (Voice α)} (h : vs ≠ []) : selectVoice vs < vs.length :=
  let ⟨_, hw⟩ := isOldest_selectVoice h
  hw.lt_length

/-- A slot beside one with a greater key is not the choice. -/
theorem selectVoice_ne_of_key_lt {vs : List (Voice α)} {a b : Nat} (hv : vs[a]? = some v) (hw : vs[b]? = some w)
    (hlt : v.key < w.key) : a ≠ selectVoice vs := by
  rintro rfl
  obtain ⟨u, hu⟩ := isOldest_selectVoice (List.ne_nil_of_mem (List.mem_of_getElem? hv))
  obtain rfl : v = u := Option.some.inj (hv.symm.trans hu.get)
  exact (hu.greatest w (List.mem_of_getElem? hw)).not_gt hlt

/-- R187, R39 (6): the lowest free slot is the choice. -/
theorem selectVoice_eq_of_lowest_free {vs : List (Voice α)} {m : Nat} (hv : vs[m]? = some v) (hfree : v.cur = none)
    (hlow : ∀ j u, vs[j]? = some u → u.cur = none → m ≤ j) : selectVoice vs = m := by
  obtain ⟨w, hw⟩ := isOldest_selectVoice (List.ne_nil_of_mem (List.mem_of_getElem? hv))
  have hle : v.key ≤ w.key := hw.greatest v (List.mem_of_getElem? hv)
  have hwfree : w.cur = none := by simpa [Voice.key_le_iff, hfree] using hle
  exact (selectVoice_le_free hv hfree).antisymm (hlow _ w hw.get hwfree)

end Select

/-- Settles O37: the scan keeps the oldest of the slots it has seen. -/
theorem selectVoiceOldestFirst : Obligations.SelectVoiceOldestFirst := by
  intro vs hvs
  obtain ⟨w, hw⟩ := isOldest_selectVoice hvs
  exact ⟨w, hw.get, fun v hv => Voice.key_le_iff.mp (hw.greatest v hv),
    fun j v hj hv => Voice.key_lt_iff.mp (hw.lowest j v hj hv)⟩

end Sys2Proof.Machine

/-! ## The slots after an accepted NOTE_ON (R185, R188, R189) -/

namespace Sys2Proof.Machine

/-- Activity in the words of R38. -/
theorem Voice.activeOn_iff_isSome {α : Type} {note : Note} {v : Voice α} :
    v.activeOn note = true ↔ v.cur.isSome = true ∧ v.fade = none ∧ v.note = note := by
  rw [Voice.activeOn_iff, Option.isSome_iff_ne_none]

theorem markFading_of_activeOn {α : Type} {note : Note} {v : Voice α} (h : v.activeOn note = true) :
    markFading note v = { v with fade := v.cur } := if_pos h

/-- R8: a well-formed block has a voice. -/
theorem voices_ne_nil_of_configOk {α : Type} [Field α] [LinearOrder α] {s : State α} (hc : s.configOk = true) :
    s.voices ≠ [] := by
  rintro hnil
  simp [State.configOk, paramsOk, hnil] at hc

section NoteOnSlots
variable {α : Type} [Field α] [LinearOrder α] {par : Params α} {note : Note} {vel : α} {vs : List (Voice α)}

/-- Steps 2 and 3 of R185: the choice reads the slots as they were before step 1. -/
theorem noteOnVoices_eq : noteOnVoices par note vel vs =
    (vs.map (markFading note)).set (selectVoice vs) (freshVoice note vel (seedInitOf par (selectVoice vs))) := by
  rw [noteOnVoices, selectVoice_map_markFading]

theorem noteOnVoices_getElem?_selected (h : vs ≠ []) : (noteOnVoices par note vel vs)[selectVoice vs]? =
    some (freshVoice note vel (seedInitOf par (selectVoice vs))) := by
  rw [noteOnVoices_eq, List.getElem?_set_self (by simpa using selectVoice_lt_length h)]

theorem noteOnVoices_getElem?_of_ne {j : Nat} {v : Voice α} (hj : j ≠ selectVoice vs) (hv : vs[j]? = some v) :
    (noteOnVoices par note vel vs)[j]? = some (markFading note v) := by
  rw [noteOnVoices_eq, List.getElem?_set_ne hj.symm, List.getElem?_map, hv, Option.map_some]

end NoteOnSlots

/-- The state after an accepted NOTE_ON. -/
theorem execNoteOn_eq_next_of_isSome {note : Note} {opd : Word} {s t : State}
    (hopd : (velocityOf opd : Option ℚ).isSome = true) (ht : exec (.noteOn note opd) s = .next t) :
    ∃ vel, t = { s with voices := noteOnVoices s.par note vel s.voices } := by
  obtain ⟨-, rfl⟩ := execNoteOn_eq_next.mp ht
  obtain ⟨vel, hvel⟩ := Option.isSome_iff_exists.mp hopd
  exact ⟨vel, noteOn_of_velocity hvel⟩

/-- Settles O38: the chosen slot is written last, every other one by step 1 alone. -/
theorem noteOnResult : Obligations.NoteOnResult := by
  intro note opd vel s hc hvel
  have hvoices := voices_ne_nil_of_configOk hc
  refine ⟨{ s with voices := noteOnVoices s.par note vel s.voices }, selectVoice s.voices,
    execNoteOn_eq_next.mpr ⟨hc, (noteOn_of_velocity hvel).symm⟩, rfl, selectVoice_lt_length hvoices, rfl,
    noteOnVoices_getElem?_selected hvoices, fun j v hj hv => ?_⟩
  rw [noteOnVoices_getElem?_of_ne hj hv, markFading]
  simp only [Voice.activeOn_iff_isSome]

/-- Settles O39: the counters after NOTE_ON are those before it with 0 in the lowest free slot. -/
theorem noteOnFillsInOrder : Obligations.NoteOnFillsInOrder := by
  intro note opd s t m hopd hfree hm ht
  obtain ⟨vel, rfl⟩ := execNoteOn_eq_next_of_isSome hopd ht
  have hget : s.voices[m]? = some s.voices[m] := List.getElem?_eq_getElem hm
  have hselect : selectVoice s.voices = m :=
    selectVoice_eq_of_lowest_free hget ((hfree m _ hget).mpr le_rfl) fun j u hu => (hfree j u hu).mp
  have hcounters : counters (noteOnVoices s.par note vel s.voices) = (counters s.voices).set m (some 0) := by
    rw [counters_noteOnVoices, hselect]
  refine ⟨fun j v hv => ?_, fun j hj => ?_⟩
  · have hcur : ((counters s.voices).set m (some 0))[j]? = some v.cur :=
      hcounters ▸ counters_getElem?_eq_some.mpr ⟨v, hv, rfl⟩
    rcases eq_or_ne j m with rfl | hj
    · rw [List.getElem?_set_self (by simpa using hm)] at hcur
      simp [← Option.some.inj hcur]
    · rw [List.getElem?_set_ne hj.symm] at hcur
      obtain ⟨u, hu, huv⟩ := counters_getElem?_eq_some.mp hcur
      rw [← huv, hfree j u hu]
      omega
  · rw [← List.getElem?_map, ← List.getElem?_map]
    change (counters (noteOnVoices s.par note vel s.voices))[j]? = (counters s.voices)[j]?
    rw [hcounters, List.getElem?_set_ne hj.ne']

/-- Settles O40: a slot beside a free or older one is not chosen, so step 1 alone touches it. -/
theorem retriggerMarksFading : Obligations.RetriggerMarksFading := by
  intro note opd s t a b cur v w hopd hv hcur hfade hnote hw hkey ht
  obtain ⟨vel, rfl⟩ := execNoteOn_eq_next_of_isSome hopd ht
  have hlt : v.key < w.key := Voice.key_lt_iff.mpr ⟨cur, hcur, hkey⟩
  have hactive : v.activeOn note = true := Voice.activeOn_iff_isSome.mpr ⟨by rw [hcur]; rfl, hfade, hnote⟩
  rw [noteOnVoices_getElem?_of_ne (selectVoice_ne_of_key_lt hv hw hlt) hv, markFading_of_activeOn hactive, hcur]

end Sys2Proof.Machine

/-! ## The slot NOTE_OFF acts on, and what it does to it (R190 to R193) -/

namespace Sys2Proof.Machine

section Search
variable {α : Type} {note : Note}

theorem activeSlotFrom_isSome (note : Note) (i : Nat) (vs : List (Voice α)) :
    (activeSlotFrom note i vs).isSome = vs.any (Voice.activeOn note) := by
  induction vs generalizing i with
  | nil => rfl
  | cons v vs ih => cases hv : v.activeOn note <;> simp [activeSlotFrom, hv, ih]

/-- The search finds a slot exactly when one is active on the note. -/
theorem activeSlot_isSome (note : Note) (vs : List (Voice α)) :
    (activeSlot note vs).isSome = vs.any (Voice.activeOn note) := activeSlotFrom_isSome note 0 vs

theorem activeSlot_eq_none {vs : List (Voice α)} (h : ∀ v ∈ vs, v.activeOn note ≠ true) :
    activeSlot note vs = none := by
  rw [← Option.not_isSome_iff_eq_none, activeSlot_isSome, List.any_eq_true]
  rintro ⟨v, hv, hactive⟩
  exact h v hv hactive

theorem activeSlotFrom_eq_of_lowest {i a : Nat} {vs : List (Voice α)} {v : Voice α} (hv : vs[a]? = some v)
    (hactive : v.activeOn note = true) (hlow : ∀ j w, j < a → vs[j]? = some w → w.activeOn note ≠ true) :
    activeSlotFrom note i vs = some (i + a, v) := by
  induction vs generalizing i a with
  | nil => simp at hv
  | cons u vs ih =>
    cases a with
    | zero =>
      obtain rfl : u = v := by simpa using hv
      rw [activeSlotFrom, if_pos hactive, Nat.add_zero]
    | succ a =>
      rw [activeSlotFrom, if_neg (hlow 0 u a.succ_pos rfl), ih (by simpa using hv) fun j w hj hw =>
        hlow (j + 1) w (Nat.succ_lt_succ hj) (by simpa using hw)]
      rw [Nat.add_right_comm, Nat.add_assoc]

/-- The search answers the lowest slot active on the note (R190). -/
theorem activeSlot_eq_of_lowest {a : Nat} {vs : List (Voice α)} {v : Voice α} (hv : vs[a]? = some v)
    (hactive : v.activeOn note = true) (hlow : ∀ j w, j < a → vs[j]? = some w → w.activeOn note ≠ true) :
    activeSlot note vs = some (a, v) := by
  rw [activeSlot, activeSlotFrom_eq_of_lowest hv hactive hlow, Nat.zero_add]

theorem activeSlotFrom_set {i a : Nat} {vs : List (Voice α)} {v w : Voice α}
    (h : activeSlotFrom note i vs = some (i + a, v)) (hw : w.activeOn note = true) :
    activeSlotFrom note i (vs.set a w) = some (i + a, w) := by
  induction vs generalizing i a with
  | nil => cases h
  | cons u vs ih =>
    rw [activeSlotFrom] at h
    split at h
    next =>
      have hia : i = i + a := congrArg Prod.fst (Option.some.inj h)
      obtain rfl : a = 0 := by omega
      rw [List.set_cons_zero, activeSlotFrom, if_pos hw, Nat.add_zero]
    next hu =>
      obtain ⟨j, hj, -⟩ := activeSlotFrom_eq_some h
      obtain rfl : a = j + 1 := by omega
      rw [hj] at h ⊢
      rw [List.set_cons_succ, activeSlotFrom, if_neg hu, ih h]

/-- A slot that was found and stays active on the note is found again. -/
theorem activeSlot_set {a : Nat} {vs : List (Voice α)} {v w : Voice α} (h : activeSlot note vs = some (a, v))
    (hw : w.activeOn note = true) : activeSlot note (vs.set a w) = some (a, w) := by
  rw [← Nat.zero_add a] at h ⊢
  exact (Nat.zero_add a).symm ▸ activeSlotFrom_set h hw

end Search

section NoteOffCases
variable {α : Type} {note : Note} {s : State α} {a : Nat} {v : Voice α}

theorem noteOff_of_none (h : activeSlot note s.voices = none) : noteOff note s = s := by rw [noteOff, h]

theorem noteOff_of_unreleased (h : activeSlot note s.voices = some (a, v)) (hrel : v.rel = none) :
    noteOff note s = s.setVoice a { v with rel := v.cur } := by simp only [noteOff, h, hrel]

theorem noteOff_of_released (h : activeSlot note s.voices = some (a, v)) (hrel : v.rel.isSome = true) :
    noteOff note s = setFlag .repeatOff s := by
  obtain ⟨r, hr⟩ := Option.isSome_iff_exists.mp hrel
  simp only [noteOff, h, hr]

/-- After NOTE_OFF the voice it acted on, if any, is released and is found again. -/
theorem activeSlot_noteOff (h : activeSlot note s.voices = some (a, v)) :
    ∃ w, activeSlot note (noteOff note s).voices = some (a, w) ∧ w.rel.isSome = true := by
  obtain ⟨-, hactive⟩ := activeSlot_eq_some h
  cases hrel : v.rel with
  | none =>
    rw [noteOff_of_unreleased h hrel]
    exact ⟨_, activeSlot_set h hactive, Option.isSome_iff_ne_none.mpr (Voice.activeOn_iff.mp hactive).1⟩
  | some r =>
    have hsome : v.rel.isSome = true := by rw [hrel]; rfl
    rw [noteOff_of_released h hsome]
    exact ⟨v, h, hsome⟩

/-- R191, R138: a second NOTE_OFF finds the voice released, or again none. -/
theorem noteOff_noteOff (note : Note) (s : State α) : noteOff note (noteOff note s) =
    if s.voices.any (Voice.activeOn note) then setFlag .repeatOff (noteOff note s) else noteOff note s := by
  rw [← activeSlot_isSome]
  cases h : activeSlot note s.voices with
  | none => rw [noteOff_of_none h, noteOff_of_none h]; rfl
  | some av =>
    obtain ⟨w, hw, hrel⟩ := activeSlot_noteOff h
    exact noteOff_of_released hw hrel

/-- R193: the slot NOTE_OFF acts on holds no fade mark. -/
theorem noteOff_getElem?_of_fading {j : Nat} (hv : s.voices[j]? = some v) (hfade : v.fade.isSome = true) :
    (noteOff note s).voices[j]? = some v := by
  cases h : activeSlot note s.voices with
  | none => rwa [noteOff_of_none h]
  | some aw =>
    obtain ⟨a, w⟩ := aw
    obtain ⟨hw, hactive⟩ := activeSlot_eq_some h
    cases hrel : w.rel with
    | none =>
      have hne : a ≠ j := by
        rintro rfl
        obtain rfl : w = v := Option.some.inj (hw.symm.trans hv)
        simp [(Voice.activeOn_iff.mp hactive).2.1] at hfade
      rw [noteOff_of_unreleased h hrel, setVoice_voices, List.getElem?_set_ne hne, hv]
    | some r => rwa [noteOff_of_released h (by rw [hrel]; rfl)]

end NoteOffCases

/-- NOTE_OFF keeps the configuration well formed: it keeps the parameters and the number of slots. -/
theorem configOk_noteOff {α : Type} [Field α] [LinearOrder α] {note : Note} {s : State α} (hc : s.configOk = true) :
    (noteOff note s).configOk = true := by
  rcases noteOff_cases note s with h | h | ⟨a, v, -, h⟩ <;> rw [h]
  · exact hc
  · exact hc
  · rwa [configOk_setVoice]

/-- Settles O41: the search answers the lowest active voice, and `REL` of that voice decides. -/
theorem noteOffResult : Obligations.NoteOffResult := by
  intro note s hc
  refine ⟨fun h => ?_, fun a v hv hcur hfade hnote hlow => ?_⟩
  · have hslot : activeSlot note s.voices = none :=
      activeSlot_eq_none fun v hv => Voice.activeOn_iff_isSome.not.mpr (h v hv)
    exact execNoteOff_eq_next.mpr ⟨hc, (noteOff_of_none hslot).symm⟩
  · have hslot : activeSlot note s.voices = some (a, v) :=
      activeSlot_eq_of_lowest hv (Voice.activeOn_iff_isSome.mpr ⟨hcur, hfade, hnote⟩) fun j w hj hw =>
        Voice.activeOn_iff_isSome.not.mpr (hlow j w hj hw)
    exact ⟨fun hrel => execNoteOff_eq_next.mpr ⟨hc, (noteOff_of_unreleased hslot hrel).symm⟩,
      fun hrel => execNoteOff_eq_next.mpr ⟨hc, (noteOff_of_released hslot hrel).symm⟩⟩

/-- Settles O42: the first NOTE_OFF leaves the voice it found active, and released. -/
theorem noteOffTwice : Obligations.NoteOffTwice := by
  intro note s t ht
  obtain ⟨hc, rfl⟩ := execNoteOff_eq_next.mp ht
  exact execNoteOff_eq_next.mpr ⟨configOk_noteOff hc, (noteOff_noteOff note s).symm⟩

/-- Settles O43: an active voice has no fade mark. -/
theorem noteOffSparesFading : Obligations.NoteOffSparesFading := by
  intro note s t j v ht hv hfade
  obtain ⟨-, rfl⟩ := execNoteOff_eq_next.mp ht
  exact noteOff_getElem?_of_fading hv hfade

end Sys2Proof.Machine

namespace Sys2Proof

/-! ## No complete command, and the length of a refused one (R80, R88) -/

section CommandLength
variable {w : Word}

theorem opcodeOf_eq_noteOn_iff : opcodeOf w = 0x01#8 ↔ 0x01000000 ≤ w.toNat ∧ w.toNat < 0x02000000 := by
  rw [opcodeOf_eq_iff, BitVec.toNat_ofNat]
  omega

theorem commandLength_of_noteOn (h : 0x01000000 ≤ w.toNat ∧ w.toNat < 0x02000000) : commandLength w = 2 :=
  if_pos (opcodeOf_eq_noteOn_iff.mpr h)

theorem commandLength_of_not_noteOn (h : ¬ (0x01000000 ≤ w.toNat ∧ w.toNat < 0x02000000)) : commandLength w = 1 :=
  if_neg (opcodeOf_eq_noteOn_iff.not.mpr h)

end CommandLength

/-- Only opcode 0x01 asks for a second word, so only it can be incomplete with a word there. -/
theorem decode_eq_incomplete_iff {ws : List Word} :
    decode ws = .incomplete ↔ ws = [] ∨ ∃ w, opcodeOf w = 0x01#8 ∧ ws = [w] := by
  constructor
  · intro h
    cases ws with
    | nil => exact .inl rfl
    | cons w ws =>
      by_cases h₁ : opcodeOf w = 0x01#8
      · cases ws with
        | nil => exact .inr ⟨w, h₁, rfl⟩
        | cons opd rest =>
          rw [decode_of_noteOn h₁] at h
          split at h <;> cases h
      · by_cases h₂ : opcodeOf w = 0x02#8
        · rw [decode_of_noteOff h₂] at h
          split at h <;> cases h
        · by_cases h₃ : opcodeOf w = 0x03#8
          · rw [decode_of_render h₃] at h
            cases h
          · rw [decode_of_unassigned h₁ h₂ h₃] at h
            cases h
  · rintro (rfl | ⟨w, h₁, rfl⟩)
    · rfl
    · exact decode_of_noteOn_lone h₁

end Sys2Proof

namespace Sys2Proof.Machine

/-! ## Refused commands and waiting (R201, R205, R210) -/

section FetchOf
variable {α : Type} [Zero α] [One α] [Add α] [Sub α] [Neg α] [Mul α] [Div α] [NatCast α] [IntCast α]
  [LT α] [LE α] [DecidableLT α] [DecidableLE α] [Max α] {s : State α}

theorem fetch_of_illegal {why : Illegal} {rest : List Word} (hc : s.configOk = true) (hw : s.seq.waveIssue = false)
    (hd : decode s.port = .illegal why rest) : fetch s = .illegal (latchWords rest s) := by
  obtain ⟨k, hk⟩ := kind?_of_configOk hc
  simp [fetch, hk, hw, hd]

theorem fetch_of_incomplete (hc : s.configOk = true) (hw : s.seq.waveIssue = false)
    (hd : decode s.port = .incomplete) : fetch s = .idle := by
  obtain ⟨k, hk⟩ := kind?_of_configOk hc
  simp [fetch, hk, hw, hd]

theorem configOk_latchWords (rest : List Word) (s : State α) : (latchWords rest s).configOk = s.configOk := by
  simp [State.configOk]

end FetchOf

theorem step_of_fetch_idle {s : State} (h : fetch s = .idle) : step s = .next s := by
  simp [step, h]

theorem step_of_illegal {why : Illegal} {rest : List Word} {s : State} (hc : s.configOk = true)
    (hw : s.seq.waveIssue = false) (hd : decode s.port = .illegal why rest) :
    step s = .next (setFlag .illegalCmd (latchWords rest s)) := by
  have hstep : step s = illegalCommand (latchWords rest s) := by simp [step, fetch_of_illegal hc hw hd]
  rw [hstep, illegalCommand_eq_next]
  exact ⟨(configOk_latchWords rest s).trans hc, rfl⟩

/-- Settles O57: the decoder refuses the illegal words before any velocity is looked at; the velocity of a legal
NOTE_ON is refused by NOTE_ON itself. -/
theorem refusalIsPrecise : Obligations.RefusalIsPrecise := by
  intro s w ws hc hw hp
  obtain ⟨-, -, hillegal, htwo⟩ := firstWordDecidesCommand w ws
  refine ⟨fun h => ?_, ?_⟩
  · obtain ⟨why, hd⟩ := hillegal h
    have hl : commandLength w = 1 := commandLength_of_not_noteOn (by omega)
    rw [step_of_illegal hc hw (hp ▸ hd), latchWords_of_one hp hl]
    rfl
  · rintro opd rest rfl
    obtain ⟨hlegal, hreserved⟩ := htwo opd rest rfl
    refine ⟨fun h => ?_, fun ⟨hlo, hhi, hvel⟩ => ?_⟩
    · obtain ⟨why, hd⟩ := hreserved h
      have hl : commandLength w = 2 := commandLength_of_noteOn (by omega)
      rw [step_of_illegal hc hw (hp ▸ hd), latchWords_of_two hp hl]
      rfl
    · have hl : commandLength w = 2 := commandLength_of_noteOn (by omega)
      obtain ⟨-, hrun, -⟩ := stepRunsDecoded s hc
      obtain ⟨-, -, -, hrefused⟩ := velocityCheck
      rw [hrun w opd rest _ hw hp hl (hp ▸ hlegal ⟨hlo, hhi⟩)]
      exact hrefused _ opd _ hc hvel

/-- Settles O58: only opcode 0x01 waits for a second word. -/
theorem waitsForACommand : Obligations.WaitsForACommand := by
  refine fun s hc hw => ⟨?_, fun hd => step_of_fetch_idle (fetch_of_incomplete hc hw hd)⟩
  simp only [decode_eq_incomplete_iff, opcodeOf_eq_noteOn_iff, and_assoc]

end Sys2Proof.Machine

/-! ## A RENDER with no sounding slot (R172, R173, R224) -/

namespace Sys2Proof.Machine

theorem advance_of_free {α : Type} (par : Params α) (n : Nat) {v : Voice α} (hcur : v.cur = none) :
    advance par n v = v := by
  rw [advance, hcur, Option.map_none, ← hcur]

/-- A free slot adds nothing to any frame and is left as it is (R172). -/
theorem voiceRun_of_free {α : Type} [Field α] [LinearOrder α] (c : Ctx α) (n i : Nat) {v : Voice α}
    (hcur : v.cur = none) : voiceRun c n i v = (List.replicate n 0, v) := by
  induction n generalizing i with
  | zero => rfl
  | succ n ih => rw [voiceRun, frameSample_of_free hcur, frameVoice_of_free c i hcur, ih, List.replicate_succ]

theorem toF32_zero {α : Type} [Field α] [LinearOrder α] [IsStrictOrderedRing α] [FloorRing α] :
    toF32 (0 : α) = 0#32 := by
  simpa [f32Word] using toF32_f32Value (α := α) (m := 0) (by decide)

section Silence
variable {α : Type} [Field α] [LinearOrder α] {N : Numerics α} {k : Kind} {n : Nat} {s : State α}

theorem renderWith_voices_of_free (hfree : ∀ v ∈ s.voices, v.cur = none) :
    (renderWith N k n s).voices = s.voices := by
  rw [renderWith_voices_eq_map]
  refine (List.map_congr_left fun v hv => ?_).trans (List.map_id' _)
  rw [voiceRun_of_free _ n 0 (hfree v hv), advance_of_free s.par n (hfree v hv)]

/-- Each entry below the count is `toF32` of the empty sum, 0 (R173). -/
theorem renderWith_read_of_free (hfree : ∀ v ∈ s.voices, v.cur = none) {i : Nat} (hi : i < n) :
    (renderWith N k n s).out.read i = some (N.toF32 0) := by
  have hzero : ∀ v ∈ s.voices, ((voiceRun (s.ctx N k) n 0 v).1)[i]?.getD 0 = 0 := fun v hv => by
    simp [voiceRun_of_free _ n 0 (hfree v hv), hi]
  rw [renderWith_read hi, List.sum_eq_zero (List.forall_mem_map.mpr hzero)]

end Silence

/-- Settles O32: no slot adds to a frame, and `toF32` of 0 is the word 0. -/
theorem renderSilence : Obligations.RenderSilence := by
  intro count s hc hfree
  obtain ⟨k, hk⟩ := kind?_of_configOk hc
  refine ⟨_, execRender_eq_next.mpr ⟨k, hk, rfl⟩, renderWith_voices_of_free hfree, fun i hi => ?_⟩
  rw [renderWith_read_of_free hfree hi]
  exact congrArg some toF32_zero

end Sys2Proof.Machine
